-- ==== Sys2Proof/Word.lean ====
section
/-! DEFINITION. The widths the spec uses (00_scope.md R5: every value is an unsigned integer of a stated width). -/

namespace Sys2Proof

/-- `u8` of R5. -/
abbrev Byte := BitVec 8

/-- `u16` of R5. -/
abbrev Half := BitVec 16

/-- `u32` of R5. -/
abbrev Word := BitVec 32

/-- `u40` of R5: one command word (30_encoding.md R80). -/
abbrev CmdWord := BitVec 40

end Sys2Proof
end

