-- ==== Sys2Proof/Syntax.lean ====
section
/-! DEFINITION. The ten commands of 30_encoding.md R82, with the operand fields of R81. -/

namespace Sys2Proof

/-- A command. An operand is a bit vector of its field's width, so no command holds an operand that
does not fit; the numbers an assembler reads are checked in WellFormed.lean. -/
inductive Instr where
  /-- `NOP` (43_control.md R170). -/
  | nop
  /-- `CRC_INIT` (40_crc.md R104). -/
  | crcInit
  /-- `CRC_FEED d8` (40_crc.md R105). -/
  | crcFeed (d8 : Byte)
  /-- `CRC_READ` (40_crc.md R106). -/
  | crcRead
  /-- `TX_START type, id, len` (41_framer.md R121). -/
  | txStart (mtype : Byte) (id : Byte) (len : Half)
  /-- `TX_DATA d8` (41_framer.md R122). -/
  | txData (d8 : Byte)
  /-- `TX_ABORT` (41_framer.md R123). -/
  | txAbort
  /-- `RX_BYTE d8` (42_deframer.md R140). -/
  | rxByte (d8 : Byte)
  /-- `RX_FLUSH` (42_deframer.md R149). -/
  | rxFlush
  /-- `REG_READ sel` (43_control.md R171). -/
  | regRead (sel : Byte)
  deriving DecidableEq, Repr

end Sys2Proof
end

