-- ==== Sys2Proof/WellFormed.lean ====
section
/-! DEFINITION. The written form of a command (30_encoding.md R85: a mnemonic and its operands, plain
numbers) and the check that its operands are as many as the form asks for and fit their fields. -/

namespace Sys2Proof

/-- The operand forms of R81. -/
inductive OperandForm where
  /-- Form `N`: no operand. -/
  | none
  /-- Form `B`: one byte, a data byte or a register select. -/
  | byte
  /-- Form `S`: `type`, `id`, `len`. -/
  | start
  deriving DecidableEq, Repr

/-- The mnemonics of R82. -/
inductive Mnemonic where
  | nop
  | crcInit
  | crcFeed
  | crcRead
  | txStart
  | txData
  | txAbort
  | rxByte
  | rxFlush
  | regRead
  deriving DecidableEq, Repr

/-- The mnemonic of a command. -/
def Instr.mnemonic : Instr → Mnemonic
  | .nop => .nop
  | .crcInit => .crcInit
  | .crcFeed _ => .crcFeed
  | .crcRead => .crcRead
  | .txStart _ _ _ => .txStart
  | .txData _ => .txData
  | .txAbort => .txAbort
  | .rxByte _ => .rxByte
  | .rxFlush => .rxFlush
  | .regRead _ => .regRead

/-- The "form" column of R82. -/
def Mnemonic.form : Mnemonic → OperandForm
  | .nop => .none
  | .crcInit => .none
  | .crcFeed => .byte
  | .crcRead => .none
  | .txStart => .start
  | .txData => .byte
  | .txAbort => .none
  | .rxByte => .byte
  | .rxFlush => .none
  | .regRead => .byte

/-- A command as R85 writes it: the mnemonic, then operands that are numbers of any size. -/
structure SourceInstr where
  mnemonic : Mnemonic
  operands : List Nat
  deriving DecidableEq, Repr

/-- The operands are as many as the form names (R81) and each fits its field; R85 calls anything else
an assembly error. -/
def SourceInstr.wellFormed (i : SourceInstr) : Bool :=
  match i.mnemonic.form, i.operands with
  | .none, [] => true
  | .byte, [d] => decide (d < 256)
  | .start, [mtype, id, len] => decide (mtype < 256) && decide (id < 256) && decide (len < 65536)
  | _, _ => false

/-- A command written out again: its mnemonic and its operands as numbers. -/
def Instr.source : Instr → SourceInstr
  | .nop => ⟨.nop, []⟩
  | .crcInit => ⟨.crcInit, []⟩
  | .crcFeed d8 => ⟨.crcFeed, [d8.toNat]⟩
  | .crcRead => ⟨.crcRead, []⟩
  | .txStart mtype id len => ⟨.txStart, [mtype.toNat, id.toNat, len.toNat]⟩
  | .txData d8 => ⟨.txData, [d8.toNat]⟩
  | .txAbort => ⟨.txAbort, []⟩
  | .rxByte d8 => ⟨.rxByte, [d8.toNat]⟩
  | .rxFlush => ⟨.rxFlush, []⟩
  | .regRead sel => ⟨.regRead, [sel.toNat]⟩

/-- A command is well-formed when what it writes out as is: its operands fit the fields of R81. The
operand types make it so for every command (Laws/PerInstr.lean). -/
def Instr.wellFormed (i : Instr) : Bool := i.source.wellFormed

end Sys2Proof
end

