-- ==== Sys2Proof/Decode.lean ====
section
/-! DEFINITION. Decoding and encoding command words (30_encoding.md R80 to R84). A word is one 40-bit
number with no byte order (20_memory.md R54; log 12). -/

namespace Sys2Proof

/-! ### The opcode map (R82) -/

/-- The "op" column of R82. -/
def Mnemonic.op : Mnemonic → Byte
  | .nop => 0x00#8
  | .crcInit => 0x01#8
  | .crcFeed => 0x02#8
  | .crcRead => 0x03#8
  | .txStart => 0x10#8
  | .txData => 0x11#8
  | .txAbort => 0x12#8
  | .rxByte => 0x20#8
  | .rxFlush => 0x21#8
  | .regRead => 0x30#8

/-- The "match" column of R82. -/
def Mnemonic.matchWord : Mnemonic → CmdWord
  | .nop => 0x0000000000#40
  | .crcInit => 0x0100000000#40
  | .crcFeed => 0x0200000000#40
  | .crcRead => 0x0300000000#40
  | .txStart => 0x1000000000#40
  | .txData => 0x1100000000#40
  | .txAbort => 0x1200000000#40
  | .rxByte => 0x2000000000#40
  | .rxFlush => 0x2100000000#40
  | .regRead => 0x3000000000#40

/-- The "mask" column of R82: the opcode bits and every reserved argument bit. -/
def Mnemonic.maskWord : Mnemonic → CmdWord
  | .nop => 0xFFFFFFFFFF#40
  | .crcInit => 0xFFFFFFFFFF#40
  | .crcFeed => 0xFFFFFFFF00#40
  | .crcRead => 0xFFFFFFFFFF#40
  | .txStart => 0xFF00000000#40
  | .txData => 0xFFFFFFFF00#40
  | .txAbort => 0xFFFFFFFFFF#40
  | .rxByte => 0xFFFFFFFF00#40
  | .rxFlush => 0xFFFFFFFFFF#40
  | .regRead => 0xFFFFFFFF00#40

/-- The assigned opcodes of R83; every other value is unassigned (R82, R84). -/
def Mnemonic.ofOp (op : Byte) : Option Mnemonic :=
  if op = 0x00#8 then some .nop
  else if op = 0x01#8 then some .crcInit
  else if op = 0x02#8 then some .crcFeed
  else if op = 0x03#8 then some .crcRead
  else if op = 0x10#8 then some .txStart
  else if op = 0x11#8 then some .txData
  else if op = 0x12#8 then some .txAbort
  else if op = 0x20#8 then some .rxByte
  else if op = 0x21#8 then some .rxFlush
  else if op = 0x30#8 then some .regRead
  else none

/-! ### The fields of a word (R80, R81) -/

/-- `op = w[39:32]` (R80). -/
def opField (w : CmdWord) : Byte := w.extractLsb' 32 8

/-- `d8 = arg[7:0]`, the operand of form `B`: a data byte or a register select (R81). -/
def d8Field (w : CmdWord) : Byte := w.extractLsb' 0 8

/-- `type = arg[31:24]` of form `S` (R81). -/
def typeField (w : CmdWord) : Byte := w.extractLsb' 24 8

/-- `id = arg[23:16]` of form `S` (R81). -/
def idField (w : CmdWord) : Byte := w.extractLsb' 16 8

/-- `len = arg[15:0]` of form `S` (R81). -/
def lenField (w : CmdWord) : Half := w.extractLsb' 0 16

/-- The command a word holds once its mnemonic is known and its reserved bits are zero. -/
def Mnemonic.withOperandsOf (m : Mnemonic) (w : CmdWord) : Instr :=
  match m with
  | .nop => .nop
  | .crcInit => .crcInit
  | .crcFeed => .crcFeed (d8Field w)
  | .crcRead => .crcRead
  | .txStart => .txStart (typeField w) (idField w) (lenField w)
  | .txData => .txData (d8Field w)
  | .txAbort => .txAbort
  | .rxByte => .rxByte (d8Field w)
  | .rxFlush => .rxFlush
  | .regRead => .regRead (d8Field w)

/-! ### Decoding -/

/-- Why a word is no command (R83). -/
inductive DecodeError where
  /-- `ILLEGAL_OPCODE`: the opcode is not in the map of R82. -/
  | illegalOpcode
  /-- `RESERVED_BITS`: an argument bit the form reserves is 1. -/
  | reservedBits
  deriving DecidableEq, Repr

/-- `decode` of R83: the opcode is tested before the reserved bits. -/
def decode (w : CmdWord) : Except DecodeError Instr :=
  match Mnemonic.ofOp (opField w) with
  | none => .error .illegalOpcode
  | some m =>
    if w &&& m.maskWord = m.matchWord then .ok (m.withOperandsOf w)
    else .error .reservedBits

/-! ### Encoding -/

/-- The 32-bit argument field of a command: its operands in the fields of R81, every other bit 0. -/
def Instr.argument : Instr → BitVec 32
  | .nop => 0#32
  | .crcInit => 0#32
  | .crcFeed d8 => d8.setWidth 32
  | .crcRead => 0#32
  | .txStart mtype id len => (mtype ++ id) ++ len
  | .txData d8 => d8.setWidth 32
  | .txAbort => 0#32
  | .rxByte d8 => d8.setWidth 32
  | .rxFlush => 0#32
  | .regRead sel => sel.setWidth 32

/-- The word of a command: `(op, arg)` with every reserved bit zero (R80, R85). -/
def encode (i : Instr) : CmdWord := i.mnemonic.op ++ i.argument

/-! ### The opcode table's numbering -/

/-- The word whose bits, numbered as spec/opcode_table.json numbers them, are the low `nbits` bits of
`w`; the bits above are 0. -/
def tableWord (nbits w : Nat) : CmdWord := BitVec.ofNat 40 (w % 2 ^ nbits)

/-- What the decoder reads from an instruction of the opcode table. -/
def decodeTableWord (nbits w : Nat) : Option Instr :=
  match decode (tableWord nbits w) with
  | .ok i => some i
  | .error _ => none

end Sys2Proof
end

