-- ==== Sys2Proof/Config.lean ====
section
/-! DEFINITION. The configuration parameters of 00_scope.md R2 and the fixed sizes of R3. -/

namespace Sys2Proof

/-- The configuration inputs (R2, 10_state.md R34): constant for the life of an FE.
They are plain data, so a claim about every state is a claim about every configuration. -/
structure Config where
  /-- `HDR_MAGIC0`: frame byte 0, sent and expected. -/
  hdrMagic0 : Byte
  /-- `HDR_MAGIC1`: frame byte 1, sent and expected. -/
  hdrMagic1 : Byte
  /-- `TX_ADDR0`: frame byte 2 as sent. -/
  txAddr0 : Byte
  /-- `TX_ADDR1`: frame byte 3 as sent. -/
  txAddr1 : Byte
  /-- `RX_ADDR`: the value frame byte 3 must have on receive. -/
  rxAddr : Byte
  /-- `HDR_MISMATCH_DELIVERS`: deliver a frame with a bad header when its CRC matches. -/
  hdrMismatchDelivers : Bool
  deriving DecidableEq, Repr

/-- The instance's `HDR_MAGIC0`. The spec gives no value (R2 "OPEN", 93 U2; log 1), so it has no body. -/
opaque Config.openHdrMagic0 : Byte

/-- The instance's `HDR_MAGIC1`: no value in the spec (R2, U2; log 1). -/
opaque Config.openHdrMagic1 : Byte

/-- The instance's `TX_ADDR0`: no value in the spec (R2, U2; log 1). -/
opaque Config.openTxAddr0 : Byte

/-- The instance's `TX_ADDR1`: no value in the spec (R2, U2; log 1). -/
opaque Config.openTxAddr1 : Byte

/-- The instance's `RX_ADDR`: no value in the spec (R2, U2; log 1). -/
opaque Config.openRxAddr : Byte

/-- The configuration of the FE that `State.reset` describes: the open parameters of R2, and the
spec's value 0 of `HDR_MISMATCH_DELIVERS` (R2, decision D7; log 2). -/
def Config.ofSpec : Config where
  hdrMagic0 := Config.openHdrMagic0
  hdrMagic1 := Config.openHdrMagic1
  txAddr0 := Config.openTxAddr0
  txAddr1 := Config.openTxAddr1
  rxAddr := Config.openRxAddr
  hdrMismatchDelivers := false

/-- The number of bytes `TX_BUF` and `RX_BUF` each hold (R3, 10_state.md R32). -/
def bufferSize : Nat := 65535

end Sys2Proof
end

