-- ==== Sys2Proof/Machine/State.lean ====
section
/-! DEFINITION. The state of the framing engine (10_state.md): every register, the two body buffers, the
event trace, the configuration inputs, and the inputs still to come. Plain data throughout. -/

namespace Sys2Proof.Machine

open Sys2Proof

/-- A body buffer (R32) as a list of (index, byte) pairs in one canonical form: indices strictly rising
and no entry equal to what an unlisted index reads as (`Memory.wf`). -/
abbrev Memory := List Host.Cell

/-- What a buffer byte that nothing has written since reset reads as. The spec leaves it unspecified and
lets a model hold zeros (93 U1). DESIGN CHOICE, unsafe (log 3). -/
def Memory.unlisted : Byte := 0#8

/-- The six header bytes `RX_HDR[0..5]`, under the names of 30_encoding.md R70. -/
structure Header where
  /-- `RX_HDR[0]`: header magic, byte 0. -/
  magic0 : Byte
  /-- `RX_HDR[1]`: header magic, byte 1. -/
  magic1 : Byte
  /-- `RX_HDR[2]`: address field, byte 0. -/
  addr0 : Byte
  /-- `RX_HDR[3]`: address field, byte 1. -/
  addr1 : Byte
  /-- `RX_HDR[4]`: message id. -/
  id : Byte
  /-- `RX_HDR[5]`: message type. -/
  mtype : Byte
  deriving DecidableEq, Repr

/-- `RX_STATE`, the deframer's sub-state (R25). Its two-bit code is `RxState.code`. -/
inductive RxState where
  | awaitingHeader
  | awaitingLength
  | awaitingBody
  | awaitingCrc
  deriving DecidableEq, Repr

/-- The events of R35. -/
inductive Event where
  /-- A whole frame to send. -/
  | txFrame (bytes : List Byte)
  /-- A received frame, delivered. -/
  | rxFrame (addr0 addr1 id mtype : Byte) (len : Half) (body : List Byte) (crc : Half) (hdrOk : Bool)
  /-- A received frame whose CRC field does not match. -/
  | rxCrcError (hdr : Header) (len crcRx crcCalc : Half) (hdrOk : Bool)
  /-- A received frame whose header failed validation. -/
  | rxHeaderError (hdr : Header) (len crc : Half)
  /-- The answer to `CRC_READ`. -/
  | crcValue (value : Half)
  /-- The answer to `REG_READ`. -/
  | regValue (sel : Byte) (value : Word)
  /-- A command that erred (R190). -/
  | cmdError (op code : Byte)
  deriving DecidableEq, Repr

/-- What the host presents in one step (R34): the reset input, and at most one command word. -/
structure PortInput where
  /-- The reset input. -/
  reset : Bool
  /-- The word on the command port, if there is one. -/
  command : Option CmdWord
  deriving DecidableEq, Repr

/-- The framer's registers (R23). -/
structure Framer where
  /-- `TX_BUSY`. -/
  busy : Bool
  /-- `TX_TYPE`. -/
  mtype : Byte
  /-- `TX_ID`. -/
  id : Byte
  /-- `TX_LEN`. -/
  len : Half
  /-- `TX_REM`. -/
  rem : Half
  /-- `TX_CRC`. -/
  crc : Half
  /-- `TX_BUF[0..65534]`. -/
  buf : Memory
  deriving DecidableEq, Repr

/-- The deframer's registers (R25, R26). -/
structure Deframer where
  /-- `RX_STATE`. -/
  state : RxState
  /-- `RX_CNT`. -/
  cnt : Half
  /-- `RX_HDR[0..5]`. -/
  hdr : Header
  /-- `RX_LEN`. -/
  len : Half
  /-- `RX_CRC`. -/
  crc : Half
  /-- `RX_CRC_HI`. -/
  crcHi : Byte
  /-- `RX_HDR_BAD`. -/
  hdrBad : Bool
  /-- `RX_BUF[0..65534]`. -/
  buf : Memory
  deriving DecidableEq, Repr

/-- The framing engine. -/
structure State where
  /-- `CRC_ACC` (R22). -/
  crcAcc : Half
  /-- The framer (R23). -/
  tx : Framer
  /-- The deframer (R25, R26). -/
  rx : Deframer
  /-- The configuration inputs (R34, 00_scope.md R2). -/
  cfg : Config
  /-- The event port: every event emitted so far, oldest first (R34). -/
  events : List Event
  /-- What the host presents in the steps to come, oldest first. The MODEL's own field, no register of
  the FE (log 4). -/
  inputs : List PortInput
  deriving DecidableEq, Repr

/-- Why a step stops. Both reasons are raised only in states that R24 and R27 exclude from every run
that starts at reset, and for which the spec gives no rule; stopping there is safe. -/
inductive Fault where
  /-- Raised by `RX_BYTE` when `RX_STATE` and `RX_CNT` stand in no row of 42_deframer.md R140's table.
  Safe (log 7). -/
  | rxCountOutOfRange
  /-- Raised by `TX_DATA` when `TX_BUSY = 1` and not `1 ≤ TX_REM ≤ TX_LEN`, so that the index of
  41_framer.md R122 names no buffer byte. Safe (log 8). -/
  | txCountOutOfRange
  deriving DecidableEq, Repr

/-- Why a step has no meaning. -/
inductive Refusal where
  /-- Raised by no command of this model: every command has its meaning. Safe. -/
  | notModelled (mnemonic : String)
  deriving DecidableEq, Repr

/-- The framer after reset (70_reset_and_hazards.md R210). -/
def Framer.reset : Framer where
  busy := false
  mtype := 0x00#8
  id := 0x00#8
  len := 0x0000#16
  rem := 0x0000#16
  crc := 0xFFFF#16
  buf := []

/-- The deframer after reset (R210). -/
def Deframer.reset : Deframer where
  state := .awaitingHeader
  cnt := 0x0000#16
  hdr := ⟨0x00#8, 0x00#8, 0x00#8, 0x00#8, 0x00#8, 0x00#8⟩
  len := 0x0000#16
  crc := 0xFFFF#16
  crcHi := 0x00#8
  hdrBad := false
  buf := []

/-- The engine at power-on, before its first command (R210, R211), with nothing on its ports yet. -/
def State.reset : State where
  crcAcc := 0xFFFF#16
  tx := Framer.reset
  rx := Deframer.reset
  cfg := Config.ofSpec
  events := []
  inputs := []

end Sys2Proof.Machine
end

