-- ==== Sys2Proof/Machine/Ops.lean ====
section
/-! DEFINITION. The named operations the commands share: the one CRC function, the body buffers, the
event port, raising a `CmdError`, and the reset input. -/

namespace Sys2Proof.Machine

open Sys2Proof

/-- What a command answers. -/
abbrev Result := Host.Outcome State Fault Refusal

/-! ### The CRC function (40_crc.md R100 to R102) -/

/-- The CRC initial value (00_scope.md R4). -/
def crcInitial : Half := 0xFFFF#16

/-- The reflected polynomial constant (R4). -/
def crcPolynomial : Half := 0xA001#16

/-- One of the eight iterations of R100: bit 0 is tested before the logical shift. -/
def crcBit (c : Half) : Half :=
  if c.getLsbD 0 then (c >>> 1) ^^^ crcPolynomial else c >>> 1

/-- `n` iterations of R100. -/
def crcBits : Nat → Half → Half
  | 0, c => c
  | n + 1, c => crcBits n (crcBit c)

/-- `crc_byte` (R100): the byte enters the low 8 bits, then eight iterations. -/
def crcByte (c : Half) (d : Byte) : Half := crcBits 8 (c ^^^ d.setWidth 16)

/-- The running value `c` after the bytes `s` (R103). -/
def crcFold (c : Half) (s : List Byte) : Half := s.foldl crcByte c

/-- `crc16` (R102): no final XOR. -/
def crc16 (s : List Byte) : Half := crcFold crcInitial s

/-! ### The body buffers (10_state.md R32) -/

/-- The byte at index `a`. -/
def Memory.read : Memory → Nat → Byte
  | [], _ => Memory.unlisted
  | (k, v) :: rest, a => if k = a then v else Memory.read rest a

/-- Write one byte, keeping the canonical form: writing what an unlisted index reads as removes the
entry. -/
def Memory.write : Memory → Nat → Byte → Memory
  | [], a, b => if b = Memory.unlisted then [] else [(a, b)]
  | (k, v) :: rest, a, b =>
    if a < k then
      (if b = Memory.unlisted then (k, v) :: rest else (a, b) :: (k, v) :: rest)
    else if a = k then
      (if b = Memory.unlisted then rest else (a, b) :: rest)
    else (k, v) :: Memory.write rest a b

/-- The bytes at indices `0` to `n - 1`, in order. -/
def Memory.firstBytes (m : Memory) (n : Nat) : List Byte := (List.range n).map m.read

/-- The canonical form: indices strictly rising, no entry that an unlisted index would read as. -/
def Memory.wf : Memory → Bool
  | [] => true
  | (k, v) :: rest => decide (v ≠ Memory.unlisted) && rest.all (fun c => decide (k < c.1)) && Memory.wf rest

/-- Every listed index is one of the buffer's (R32: 0 to 65534). -/
def Memory.inRange (m : Memory) : Bool := m.all (fun c => decide (c.1 < bufferSize))

/-! ### The header bytes -/

/-- `RX_HDR[k] <- d` (10_state.md R26). Only `k ≤ 5` names a header byte. -/
def Header.set (h : Header) (k : Nat) (d : Byte) : Header :=
  match k with
  | 0 => { h with magic0 := d }
  | 1 => { h with magic1 := d }
  | 2 => { h with addr0 := d }
  | 3 => { h with addr1 := d }
  | 4 => { h with id := d }
  | 5 => { h with mtype := d }
  | _ => h

/-- `[RX_HDR[0], …, RX_HDR[5]]`. -/
def Header.toList (h : Header) : List Byte := [h.magic0, h.magic1, h.addr0, h.addr1, h.id, h.mtype]

/-- The header tail, frame bytes 2 to 5 (30_encoding.md R71). -/
def Header.tail (h : Header) : List Byte := [h.addr0, h.addr1, h.id, h.mtype]

/-! ### Updates of one component of the state -/

/-- `CRC_ACC <- c`. -/
def State.setCrcAcc (s : State) (c : Half) : State := { s with crcAcc := c }

/-- Replace the framer's registers. -/
def State.setTx (s : State) (tx : Framer) : State := { s with tx := tx }

/-- Replace the deframer's registers. -/
def State.setRx (s : State) (rx : Deframer) : State := { s with rx := rx }

/-- `emit e` (00_scope.md R8): append to the event trace. -/
def State.emit (s : State) (e : Event) : State := { s with events := s.events ++ [e] }

/-- The inputs after the one this step takes. -/
def State.setInputs (s : State) (ps : List PortInput) : State := { s with inputs := ps }

/-! ### Raising an error (R8, 60_exceptions.md R190, R191) -/

/-- The causes of a `CmdError` (R191). -/
inductive ErrorCause where
  | illegalOpcode
  | reservedBits
  | txBusy
  | txIdle
  | txBadId
  | badReg
  deriving DecidableEq, Repr

/-- The "code" column of R191. -/
def ErrorCause.code : ErrorCause → Byte
  | .illegalOpcode => 0x01#8
  | .reservedBits => 0x02#8
  | .txBusy => 0x03#8
  | .txIdle => 0x04#8
  | .txBadId => 0x05#8
  | .badReg => 0x06#8

/-- The cause a decoding error reports (30_encoding.md R83). -/
def ErrorCause.ofDecode : DecodeError → ErrorCause
  | .illegalOpcode => .illegalOpcode
  | .reservedBits => .reservedBits

/-- `raise CmdError(code)`: the FE's only fault primitive. It emits one event, writes nothing else and
ends the command; the FE goes on (R190, R195). There is nothing to return from (R196). -/
def raiseCmdError (op : Byte) (cause : ErrorCause) (s : State) : Result :=
  .next (s.emit (.cmdError op cause.code))

/-- What a word that is no command does (30_encoding.md R83, R84): its decoding error is raised, with the
word's opcode field. -/
def raiseDecodeError (w : CmdWord) (e : DecodeError) (s : State) : Result :=
  raiseCmdError (opField w) (ErrorCause.ofDecode e) s

/-! ### The ports (10_state.md R34) -/

/-- The reset input (70_reset_and_hazards.md R210): every register to its reset value; the events already
emitted and the parameters stay. -/
def applyReset (s : State) : State :=
  { s with crcAcc := State.reset.crcAcc, tx := Framer.reset, rx := Deframer.reset }

/-- What the command port and the reset input present in this step, and what is left for later steps.
With nothing left the host presents no command (log 5). -/
def takeInput (s : State) : PortInput × State :=
  match s.inputs with
  | [] => (⟨false, none⟩, s)
  | p :: rest => (p, s.setInputs rest)

/-- The state with the word `w` on the command port of the next step. -/
def presentWord (s : State) (w : CmdWord) : State := s.setInputs (⟨false, some w⟩ :: s.inputs)

end Sys2Proof.Machine
end

