-- ==== Sys2Proof/Machine/Flags.lean ====
section
/-! DEFINITION. The two status flags and the `STATUS` word (10_state.md R25, R28, R30). -/

namespace Sys2Proof.Machine

open Sys2Proof

/-- The two-bit code of `RX_STATE` (R25). -/
def RxState.code : RxState → BitVec 2
  | .awaitingHeader => 0#2
  | .awaitingLength => 1#2
  | .awaitingBody => 2#2
  | .awaitingCrc => 3#2

/-- `STATUS` (R30): bits 1:0 `RX_STATE`, bit 2 `TX_BUSY`, bit 3 `RX_HDR_BAD`, the rest 0. -/
def statusWord (s : State) : Word :=
  (0#28 : BitVec 28) ++ (BitVec.ofBool s.rx.hdrBad ++ (BitVec.ofBool s.tx.busy ++ s.rx.state.code))

/-- `hdr_ok` (42_deframer.md R150): the two magic bytes and frame byte 3, nothing else. -/
def hdrOk (cfg : Config) (m0 m1 a : Byte) : Bool :=
  decide (m0 = cfg.hdrMagic0) && decide (m1 = cfg.hdrMagic1) && decide (a = cfg.rxAddr)

/-- The value rule R142 gives `RX_HDR_BAD` when the sixth header byte is in. -/
def hdrBadOf (cfg : Config) (h : Header) : Bool := !hdrOk cfg h.magic0 h.magic1 h.addr1

end Sys2Proof.Machine
end

