-- ==== Sys2Proof/Machine/Operands.lean ====
section
/-! DEFINITION. Byte order of two-byte fields (00_scope.md R6, 20_memory.md R50), the bytes a CRC covers,
and the register select map (10_state.md R31). -/

namespace Sys2Proof.Machine

open Sys2Proof

/-! ### Big-endian two-byte fields -/

/-- `v[15:8]`. -/
def hiByte (v : Half) : Byte := v.extractLsb' 8 8

/-- `v[7:0]`. -/
def loByte (v : Half) : Byte := v.extractLsb' 0 8

/-- `u16be` (R6). -/
def u16be (v : Half) : List Byte := [hiByte v, loByte v]

/-- `be16` (R6). -/
def be16 (h l : Byte) : Half := h ++ l

/-! ### Covered bytes (30_encoding.md R72) -/

/-- What the CRC of a sent frame covers before its body: the header tail and the length (R70, R72). -/
def txPrefix (cfg : Config) (mtype id : Byte) (len : Half) : List Byte :=
  [cfg.txAddr0, cfg.txAddr1, id, mtype] ++ u16be len

/-! ### The register select map -/

/-- The register a select names, zero-extended to 32 bits; `none` for an unassigned select (R31). -/
def selectedRegister (s : State) (sel : Byte) : Option Word :=
  if sel = 0x00#8 then some (statusWord s)
  else if sel = 0x01#8 then some (s.crcAcc.setWidth 32)
  else if sel = 0x02#8 then some (s.tx.mtype.setWidth 32)
  else if sel = 0x03#8 then some (s.tx.id.setWidth 32)
  else if sel = 0x04#8 then some (s.tx.len.setWidth 32)
  else if sel = 0x05#8 then some (s.tx.rem.setWidth 32)
  else if sel = 0x06#8 then some (s.tx.crc.setWidth 32)
  else if sel = 0x08#8 then some (s.rx.cnt.setWidth 32)
  else if sel = 0x09#8 then some (s.rx.len.setWidth 32)
  else if sel = 0x0A#8 then some (s.rx.crc.setWidth 32)
  else if sel = 0x0B#8 then some (s.rx.crcHi.setWidth 32)
  else if sel = 0x10#8 then some (s.rx.hdr.magic0.setWidth 32)
  else if sel = 0x11#8 then some (s.rx.hdr.magic1.setWidth 32)
  else if sel = 0x12#8 then some (s.rx.hdr.addr0.setWidth 32)
  else if sel = 0x13#8 then some (s.rx.hdr.addr1.setWidth 32)
  else if sel = 0x14#8 then some (s.rx.hdr.id.setWidth 32)
  else if sel = 0x15#8 then some (s.rx.hdr.mtype.setWidth 32)
  else none

end Sys2Proof.Machine
end

