-- ==== Sys2Proof/Machine/Checksum.lean ====
section
/-! DEFINITION. The commands of the checksum engine (40_crc.md section 2). -/

namespace Sys2Proof.Machine

open Sys2Proof

/-- `CRC_INIT` (R104). -/
def execCrcInit (s : State) : Result := .next (s.setCrcAcc crcInitial)

/-- `CRC_FEED d8` (R105). -/
def execCrcFeed (d8 : Byte) (s : State) : Result := .next (s.setCrcAcc (crcByte s.crcAcc d8))

/-- `CRC_READ` (R106). -/
def execCrcRead (s : State) : Result := .next (s.emit (.crcValue s.crcAcc))

end Sys2Proof.Machine
end

