-- ==== Sys2Proof/Machine/Control.lean ====
section
/-! DEFINITION. The control commands (43_control.md). -/

namespace Sys2Proof.Machine

open Sys2Proof

/-- `NOP` (R170). -/
def execNop (s : State) : Result := .next s

/-- `REG_READ sel` (R171). -/
def execRegRead (sel : Byte) (s : State) : Result :=
  match selectedRegister s sel with
  | none => raiseCmdError Mnemonic.regRead.op .badReg s
  | some v => .next (s.emit (.regValue sel v))

end Sys2Proof.Machine
end

