-- ==== Sys2Proof/Machine/Deframer.lean ====
section
/-! DEFINITION. The deframer's commands (42_deframer.md R140 to R150), one definition per case rule, and
the function `deframe` that R152 says they compute. -/

namespace Sys2Proof.Machine

open Sys2Proof

/-! ### The cases of `RX_BYTE` -/

/-- Header byte 0 to 4 (R141): the magic stays out of the CRC. -/
def rxHeaderByte (d8 : Byte) (rx : Deframer) : Deframer :=
  { rx with
    hdr := rx.hdr.set rx.cnt.toNat d8
    crc := if 2 ≤ rx.cnt.toNat then crcByte rx.crc d8 else rx.crc
    cnt := rx.cnt + 1#16 }

/-- Header byte 5, the message type (R142): the header is validated now. -/
def rxTypeByte (cfg : Config) (d8 : Byte) (rx : Deframer) : Deframer :=
  { rx with
    hdr := rx.hdr.set 5 d8
    crc := crcByte rx.crc d8
    hdrBad := hdrBadOf cfg rx.hdr
    state := .awaitingLength
    cnt := 0x0000#16 }

/-- Length byte 0, the high byte (R143). -/
def rxLengthHigh (d8 : Byte) (rx : Deframer) : Deframer :=
  { rx with len := be16 d8 0x00#8, crc := crcByte rx.crc d8, cnt := 1#16 }

/-- Length byte 1, the low byte (R144): a zero length skips the body. -/
def rxLengthLow (d8 : Byte) (rx : Deframer) : Deframer :=
  let len := be16 (hiByte rx.len) d8
  { rx with
    len := len
    crc := crcByte rx.crc d8
    cnt := 0x0000#16
    state := if len = 0x0000#16 then .awaitingCrc else .awaitingBody }

/-- Body byte (R145). -/
def rxBodyByte (d8 : Byte) (rx : Deframer) : Deframer :=
  let rx' := { rx with buf := rx.buf.write rx.cnt.toNat d8, crc := crcByte rx.crc d8 }
  if rx.cnt.toNat + 1 = rx.len.toNat then { rx' with state := .awaitingCrc, cnt := 0x0000#16 }
  else { rx' with cnt := rx.cnt + 1#16 }

/-- CRC byte 0, the high byte (R146). -/
def rxCrcHigh (d8 : Byte) (rx : Deframer) : Deframer := { rx with crcHi := d8, cnt := 1#16 }

/-- The four writes that return the deframer to the start of a frame (R148, R149). -/
def rxRestart (rx : Deframer) : Deframer :=
  { rx with state := .awaitingHeader, cnt := 0x0000#16, crc := crcInitial, hdrBad := false }

/-- The event of a whole frame (R148): a CRC mismatch is reported before a header mismatch (R193). -/
def completionEvent (delivers : Bool) (hdr : Header) (len : Half) (body : List Byte) (crcRx crcCalc : Half)
    (hdrOk : Bool) : Event :=
  if crcRx ≠ crcCalc then .rxCrcError hdr len crcRx crcCalc hdrOk
  else if hdrOk || delivers then .rxFrame hdr.addr0 hdr.addr1 hdr.id hdr.mtype len body crcRx hdrOk
  else .rxHeaderError hdr len crcRx

/-- CRC byte 1, the low byte (R147), and the frame's completion (R148). -/
def rxCrcLow (d8 : Byte) (s : State) : State :=
  (s.setRx (rxRestart s.rx)).emit
    (completionEvent s.cfg.hdrMismatchDelivers s.rx.hdr s.rx.len (s.rx.buf.firstBytes s.rx.len.toNat)
      (be16 s.rx.crcHi d8) s.rx.crc (!s.rx.hdrBad))

/-! ### The commands -/

/-- `RX_BYTE d8` (R140): the case is chosen by `RX_STATE` and `RX_CNT`. A combination outside R140's
table has no rule: log 7. -/
def execRxByte (d8 : Byte) (s : State) : Result :=
  match s.rx.state with
  | .awaitingHeader =>
    if s.rx.cnt.toNat ≤ 4 then .next (s.setRx (rxHeaderByte d8 s.rx))
    else if s.rx.cnt = 5#16 then .next (s.setRx (rxTypeByte s.cfg d8 s.rx))
    else .fault .rxCountOutOfRange
  | .awaitingLength =>
    if s.rx.cnt = 0#16 then .next (s.setRx (rxLengthHigh d8 s.rx))
    else if s.rx.cnt = 1#16 then .next (s.setRx (rxLengthLow d8 s.rx))
    else .fault .rxCountOutOfRange
  | .awaitingBody =>
    if s.rx.cnt.toNat < s.rx.len.toNat then .next (s.setRx (rxBodyByte d8 s.rx))
    else .fault .rxCountOutOfRange
  | .awaitingCrc =>
    if s.rx.cnt = 0#16 then .next (s.setRx (rxCrcHigh d8 s.rx))
    else if s.rx.cnt = 1#16 then .next (rxCrcLow d8 s)
    else .fault .rxCountOutOfRange

/-- `RX_FLUSH` (R149). -/
def execRxFlush (s : State) : Result := .next (s.setRx (rxRestart s.rx))

/-! ### The function the deframer computes (R152) -/

/-- `outcome` of one whole frame, given as its six header bytes, its two length bytes, its body and its
two CRC bytes (R152): the CRC is computed over the whole frame at once. -/
def frameOutcome (cfg : Config) (hdr : Header) (len : Half) (body : List Byte) (crcRx : Half) : Event :=
  completionEvent cfg.hdrMismatchDelivers hdr len body crcRx (crc16 (hdr.tail ++ u16be len ++ body))
    (hdrOk cfg hdr.magic0 hdr.magic1 hdr.addr1)

/-- `deframe` of R152, on at most `fuel` frames. -/
def deframeFuel (cfg : Config) : Nat → List Byte → List Event
  | 0, _ => []
  | fuel + 1, m0 :: m1 :: a0 :: a1 :: id :: mtype :: lh :: ll :: rest =>
    let len := be16 lh ll
    match rest.drop len.toNat with
    | ch :: cl :: after =>
      frameOutcome cfg ⟨m0, m1, a0, a1, id, mtype⟩ len (rest.take len.toNat) (be16 ch cl)
        :: deframeFuel cfg fuel after
    | _ => []
  | _ + 1, _ => []

/-- `deframe` (R152): the events of a byte sequence fed from the start of a frame. A frame has at least
ten bytes, so the sequence's length bounds the number of frames (log 15). -/
def deframe (cfg : Config) (s : List Byte) : List Event := deframeFuel cfg s.length s

end Sys2Proof.Machine
end

