-- ==== Sys2Proof/Machine/Framer.lean ====
section
/-! DEFINITION. The frame the framer builds, and its commands (41_framer.md). -/

namespace Sys2Proof.Machine

open Sys2Proof

/-- The bytes of a frame whose length field and CRC are known (30_encoding.md R70, R77). -/
def assembleFrame (cfg : Config) (mtype id : Byte) (len : Half) (body : List Byte) (crc : Half) : List Byte :=
  [cfg.hdrMagic0, cfg.hdrMagic1] ++ txPrefix cfg mtype id len ++ body ++ u16be crc

/-- `frame_bytes` (R120): the frame the framer builds, from the configuration, type, id and body. -/
def frameBytes (cfg : Config) (mtype id : Byte) (body : List Byte) : List Byte :=
  let len : Half := BitVec.ofNat 16 body.length
  assembleFrame cfg mtype id len body (crc16 (txPrefix cfg mtype id len ++ body))

/-- `TX_START type, id, len` (R121). -/
def execTxStart (mtype id : Byte) (len : Half) (s : State) : Result :=
  if s.tx.busy then raiseCmdError Mnemonic.txStart.op .txBusy s
  else if id = 0x00#8 then raiseCmdError Mnemonic.txStart.op .txBadId s
  else
    let c := crc16 (txPrefix s.cfg mtype id len)
    let tx := { s.tx with mtype := mtype, id := id, len := len, crc := c }
    if len = 0x0000#16 then
      .next ((s.setTx { tx with busy := false, rem := 0x0000#16 }).emit
        (.txFrame (assembleFrame s.cfg mtype id len [] c)))
    else .next (s.setTx { tx with busy := true, rem := len })

/-- The index of `TX_BUF` at which the next body byte goes: `i = TX_LEN - TX_REM` (R122). -/
def txIndex (tx : Framer) : Nat := tx.len.toNat - tx.rem.toNat

/-- `TX_DATA d8` (R122). Outside the range R122 states for `i` there is no rule: log 8. -/
def execTxData (d8 : Byte) (s : State) : Result :=
  if s.tx.busy then
    if 1 ≤ s.tx.rem.toNat ∧ s.tx.rem.toNat ≤ s.tx.len.toNat then
      let i := txIndex s.tx
      let c := crcByte s.tx.crc d8
      let tx := { s.tx with buf := s.tx.buf.write i d8, crc := c, rem := s.tx.rem - 1#16 }
      if s.tx.rem = 1#16 then
        .next ((s.setTx { tx with busy := false }).emit
          (.txFrame (assembleFrame s.cfg s.tx.mtype s.tx.id s.tx.len (s.tx.buf.firstBytes i ++ [d8]) c)))
      else .next (s.setTx tx)
    else .fault .txCountOutOfRange
  else raiseCmdError Mnemonic.txData.op .txIdle s

/-- `TX_ABORT` (R123). -/
def execTxAbort (s : State) : Result :=
  .next (s.setTx { s.tx with busy := false, rem := 0x0000#16 })

end Sys2Proof.Machine
end

