-- ==== Sys2Proof/Machine/Dispatch.lean ====
section
/-! DEFINITION. One arm per command. -/

namespace Sys2Proof.Machine

open Sys2Proof

def exec (i : Instr) (s : State) : Host.Outcome State Fault Refusal :=
  match i with
  | .nop => Sys2Proof.Machine.execNop s
  | .crcInit => Sys2Proof.Machine.execCrcInit s
  | .crcFeed d8 => Sys2Proof.Machine.execCrcFeed d8 s
  | .crcRead => Sys2Proof.Machine.execCrcRead s
  | .txStart mtype id len => Sys2Proof.Machine.execTxStart mtype id len s
  | .txData d8 => Sys2Proof.Machine.execTxData d8 s
  | .txAbort => Sys2Proof.Machine.execTxAbort s
  | .rxByte d8 => Sys2Proof.Machine.execRxByte d8 s
  | .rxFlush => Sys2Proof.Machine.execRxFlush s
  | .regRead sel => Sys2Proof.Machine.execRegRead sel s

end Sys2Proof.Machine
end

