-- ==== Sys2Proof/Machine/Step.lean ====
section
/-! DEFINITION. One step (00_scope.md glossary "Step", 10_state.md R34): the reset input, or one command
word decoded and executed, or nothing presented. -/

namespace Sys2Proof.Machine

open Sys2Proof

/-- Execute a command word, or raise its decoding error (30_encoding.md R83). -/
def execWord (w : CmdWord) (s : State) : Host.Outcome State Fault Refusal :=
  match decode w with
  | .ok i => exec i s
  | .error e => raiseDecodeError w e s

/-- Process what the ports present in one step. A command beside the reset input is not taken (R211;
log 6); with no command nothing changes (log 5). -/
def process (p : PortInput) (s : State) : Host.Outcome State Fault Refusal :=
  match p.reset, p.command with
  | true, _ => .next (applyReset s)
  | false, none => .next s
  | false, some w => execWord w s

/-- One step: take what the ports present now, and process it. -/
def step (s : State) : Host.Outcome State Fault Refusal :=
  process (takeInput s).1 (takeInput s).2

/-- `s` with the instruction of the opcode table whose bits are `w` on the command port of the next step
(log 11). -/
def State.withFetchWord (s : State) (nbits w : Nat) : State := presentWord s (tableWord nbits w)

end Sys2Proof.Machine
end

