-- ==== Sys2Proof/Machine/Assembler.lean ====
section
/-! DEFINITION. The assembler syntax (30_encoding.md R85) and the pseudo-instructions (R86): from a line of
text to command words. Text is a list of characters. -/

namespace Sys2Proof.Machine

open Sys2Proof

/-! ### From a written command to its word (R85) -/

/-- The command a written command stands for; none when an operand does not fit its field or the
operands are not those of the form (R85: an assembly error, no word is produced). -/
def toInstr (i : SourceInstr) : Option Instr :=
  if i.wellFormed then
    match i.mnemonic, i.operands with
    | .nop, [] => some .nop
    | .crcInit, [] => some .crcInit
    | .crcFeed, [d] => some (.crcFeed (BitVec.ofNat 8 d))
    | .crcRead, [] => some .crcRead
    | .txStart, [t, n, l] => some (.txStart (BitVec.ofNat 8 t) (BitVec.ofNat 8 n) (BitVec.ofNat 16 l))
    | .txData, [d] => some (.txData (BitVec.ofNat 8 d))
    | .txAbort, [] => some .txAbort
    | .rxByte, [d] => some (.rxByte (BitVec.ofNat 8 d))
    | .rxFlush, [] => some .rxFlush
    | .regRead, [d] => some (.regRead (BitVec.ofNat 8 d))
    | _, _ => none
  else none

/-- The commands of a sequence of written commands; none when one of them is an assembly error. -/
def toInstrs : List SourceInstr → Option (List Instr)
  | [] => some []
  | i :: rest =>
    match toInstr i, toInstrs rest with
    | some c, some cs => some (c :: cs)
    | _, _ => none

/-! ### Statements and pseudo-instructions (R86) -/

/-- What one line of assembler text says: a command, or a pseudo-instruction of R86. -/
inductive Statement where
  | command (i : SourceInstr)
  | crcBlock (bs : List Nat)
  | crcOf (bs : List Nat)
  | txFrame (mtype id : Nat) (body : List Nat)
  | rxStream (bs : List Nat)
  | status
  deriving DecidableEq, Repr

/-- The expansions of R86. -/
def Statement.expand : Statement → List SourceInstr
  | .command i => [i]
  | .crcBlock bs => ⟨.crcInit, []⟩ :: bs.map (fun b => ⟨.crcFeed, [b]⟩)
  | .crcOf bs => ⟨.crcInit, []⟩ :: (bs.map (fun b => ⟨.crcFeed, [b]⟩) ++ [⟨.crcRead, []⟩])
  | .txFrame mtype id body => ⟨.txStart, [mtype, id, body.length]⟩ :: body.map (fun b => ⟨.txData, [b]⟩)
  | .rxStream bs => bs.map (fun b => ⟨.rxByte, [b]⟩)
  | .status => [⟨.regRead, [0]⟩]

/-- The commands of a statement. -/
def Statement.commands (s : Statement) : Option (List Instr) := toInstrs s.expand

/-- The words of a statement. -/
def Statement.assemble (s : Statement) : Option (List CmdWord) := s.commands.map (fun cs => cs.map encode)

/-! ### The text (R85; white space and letter case: log 14) -/

/-- The tokens of a line. -/
inductive Token where
  | word (cs : List Char)
  | comma
  | openBracket
  | closeBracket
  deriving DecidableEq, Repr

/-- A character of a mnemonic or a number. -/
def isWordChar (c : Char) : Bool :=
  let n := c.toNat
  (decide (48 ≤ n) && decide (n ≤ 57)) || (decide (65 ≤ n) && decide (n ≤ 90))
    || (decide (97 ≤ n) && decide (n ≤ 122)) || decide (n = 95)

/-- Close the word read so far, whose characters stand last first. -/
def closeWord (acc : List Char) (ts : List Token) : List Token :=
  match acc with
  | [] => ts
  | _ :: _ => .word acc.reverse :: ts

/-- The tokens of a line, up to a comment; none when a character belongs to no token. `acc` is the word
read so far. -/
def tokens (acc : List Char) : List Char → Option (List Token)
  | [] => some (closeWord acc [])
  | c :: rest =>
    if c = ';' then some (closeWord acc [])
    else if isWordChar c then tokens (c :: acc) rest
    else if c = ' ' ∨ c = '\t' ∨ c = '\r' then (tokens [] rest).map (closeWord acc)
    else if c = ',' then (tokens [] rest).map (fun ts => closeWord acc (.comma :: ts))
    else if c = '[' then (tokens [] rest).map (fun ts => closeWord acc (.openBracket :: ts))
    else if c = ']' then (tokens [] rest).map (fun ts => closeWord acc (.closeBracket :: ts))
    else none

/-- The value of a digit, in a base up to sixteen. -/
def digitValue (base : Nat) (c : Char) : Option Nat :=
  let n := c.toNat
  let v := if 48 ≤ n ∧ n ≤ 57 then some (n - 48)
    else if 65 ≤ n ∧ n ≤ 70 then some (n - 55)
    else if 97 ≤ n ∧ n ≤ 102 then some (n - 87)
    else none
  v.filter (fun d => decide (d < base))

/-- The number that digits spell after the value `acc`. -/
def digits (base : Nat) (acc : Nat) : List Char → Option Nat
  | [] => some acc
  | c :: rest =>
    match digitValue base c with
    | some d => digits base (acc * base + d) rest
    | none => none

/-- A number of R85: hexadecimal with a `0x` prefix, or decimal. -/
def number : List Char → Option Nat
  | [] => none
  | '0' :: 'x' :: c :: rest => digits 16 0 (c :: rest)
  | c :: rest => digits 10 0 (c :: rest)

/-- One or more numbers separated by commas. -/
def numbersSeparated : List Token → Option (List Nat)
  | [.word w] => (number w).map (fun n => [n])
  | .word w :: .comma :: rest =>
    match number w, numbersSeparated rest with
    | some n, some ns => some (n :: ns)
    | _, _ => none
  | _ => none

/-- Numbers separated by commas, or none at all. -/
def numbers : List Token → Option (List Nat)
  | [] => some []
  | t :: ts => numbersSeparated (t :: ts)

/-- The numbers of a bracketed list that ends the line. -/
def bracketed : List Token → Option (List Nat)
  | .openBracket :: ts =>
    match ts.reverse with
    | .closeBracket :: inner => numbers inner.reverse
    | _ => none
  | _ => none

/-- The mnemonic a word spells (R82). -/
def mnemonicOf (w : List Char) : Option Mnemonic :=
  if w = ['N', 'O', 'P'] then some .nop
  else if w = ['C', 'R', 'C', '_', 'I', 'N', 'I', 'T'] then some .crcInit
  else if w = ['C', 'R', 'C', '_', 'F', 'E', 'E', 'D'] then some .crcFeed
  else if w = ['C', 'R', 'C', '_', 'R', 'E', 'A', 'D'] then some .crcRead
  else if w = ['T', 'X', '_', 'S', 'T', 'A', 'R', 'T'] then some .txStart
  else if w = ['T', 'X', '_', 'D', 'A', 'T', 'A'] then some .txData
  else if w = ['T', 'X', '_', 'A', 'B', 'O', 'R', 'T'] then some .txAbort
  else if w = ['R', 'X', '_', 'B', 'Y', 'T', 'E'] then some .rxByte
  else if w = ['R', 'X', '_', 'F', 'L', 'U', 'S', 'H'] then some .rxFlush
  else if w = ['R', 'E', 'G', '_', 'R', 'E', 'A', 'D'] then some .regRead
  else none

/-- The statement of a line's tokens after its first word. -/
def statementOf (w : List Char) (ts : List Token) : Option Statement :=
  match mnemonicOf w with
  | some m => (numbers ts).map (fun ns => .command ⟨m, ns⟩)
  | none =>
    if w = ['C', 'R', 'C', '_', 'B', 'L', 'O', 'C', 'K'] then (numbers ts).map .crcBlock
    else if w = ['C', 'R', 'C', '_', 'O', 'F'] then (numbers ts).map .crcOf
    else if w = ['T', 'X', '_', 'F', 'R', 'A', 'M', 'E'] then
      match ts with
      | .word t :: .comma :: .word n :: .comma :: list =>
        match number t, number n, bracketed list with
        | some mtype, some id, some body => some (.txFrame mtype id body)
        | _, _, _ => none
      | _ => none
    else if w = ['R', 'X', '_', 'S', 'T', 'R', 'E', 'A', 'M'] then (bracketed ts).map .rxStream
    else if w = ['S', 'T', 'A', 'T', 'U', 'S'] then (if ts = [] then some .status else none)
    else none

/-- The words a line of text assembles to: no word for a line that is blank or only a comment, and none
(an assembly error) for a line that is no statement or whose operands do not fit. -/
def assembleLine (line : List Char) : Option (List CmdWord) :=
  match tokens [] line with
  | none => none
  | some [] => some []
  | some (.word w :: ts) =>
    match statementOf w ts with
    | some s => s.assemble
    | none => none
  | some _ => none

end Sys2Proof.Machine
end

