-- ==== Sys2Proof/Safety.lean ====
section
/-! DEFINITION. The terms claims are stated in: what the registers keep in every state reachable from reset
(10_state.md R24, R27), which events a run may show, what two states share, and the run of a list of
commands. -/

namespace Sys2Proof.Machine

open Sys2Proof

/-! ### The invariants of R24 and R27 -/

/-- A body buffer in canonical form that lists only the buffer's own indices. -/
abbrev Memory.Good (m : Memory) : Prop := m.wf = true ∧ m.inRange = true

/-- The body bytes of the open frame received so far: `TX_BUF[0 .. TX_LEN - TX_REM - 1]` (R24). -/
def Framer.bodySoFar (tx : Framer) : List Byte := tx.buf.firstBytes (txIndex tx)

/-- R24, with what `TX_CRC` holds while a frame is open (R23). -/
abbrev Framer.Inv (cfg : Config) (tx : Framer) : Prop :=
  (tx.busy = false → tx.rem = 0#16) ∧
  (tx.busy = true → 1 ≤ tx.rem.toNat ∧ tx.rem.toNat ≤ tx.len.toNat ∧ tx.id ≠ 0#8 ∧
    tx.crc = crc16 (txPrefix cfg tx.mtype tx.id tx.len ++ tx.bodySoFar)) ∧
  tx.buf.Good

/-- The covered bytes received so far in the current frame (R27, 30_encoding.md R72): header bytes 2 to 5,
then the length bytes, then the body bytes. -/
def Deframer.coveredSoFar (rx : Deframer) : List Byte :=
  match rx.state with
  | .awaitingHeader => (rx.hdr.toList.take rx.cnt.toNat).drop 2
  | .awaitingLength => rx.hdr.tail ++ (u16be rx.len).take rx.cnt.toNat
  | .awaitingBody => rx.hdr.tail ++ u16be rx.len ++ rx.buf.firstBytes rx.cnt.toNat
  | .awaitingCrc => rx.hdr.tail ++ u16be rx.len ++ rx.buf.firstBytes rx.len.toNat

/-- R27, with what `RX_HDR_BAD` holds after the header (R142) and the canonical buffer. -/
abbrev Deframer.Inv (cfg : Config) (rx : Deframer) : Prop :=
  (rx.state = .awaitingHeader → rx.cnt.toNat ≤ 5 ∧ rx.hdrBad = false) ∧
  (rx.state = .awaitingLength → rx.cnt.toNat ≤ 1) ∧
  (rx.state = .awaitingBody → 1 ≤ rx.len.toNat ∧ rx.cnt.toNat ≤ rx.len.toNat - 1) ∧
  (rx.state = .awaitingCrc → rx.cnt.toNat ≤ 1) ∧
  (rx.state ≠ .awaitingHeader → rx.hdrBad = hdrBadOf cfg rx.hdr) ∧
  rx.crc = crc16 rx.coveredSoFar ∧
  rx.buf.Good

/-- What every state reachable from reset keeps. -/
abbrev State.Inv (s : State) : Prop := s.tx.Inv s.cfg ∧ s.rx.Inv s.cfg

/-! ### The events a run may show -/

/-- The commands whose words the decoder takes when no reserved bit is set (30_encoding.md R82). -/
def assignedOps : List Byte :=
  [0x00#8, 0x01#8, 0x02#8, 0x03#8, 0x10#8, 0x11#8, 0x12#8, 0x20#8, 0x21#8, 0x30#8]

/-- Which `CmdError` a command may raise, by its opcode field (60_exceptions.md R191). -/
def LegalError (op code : Byte) : Prop :=
  (code = 0x01#8 ∧ op ∉ assignedOps) ∨ (code = 0x02#8 ∧ op ∈ assignedOps ∧ op ≠ 0x10#8) ∨
  (code = 0x03#8 ∧ op = 0x10#8) ∨ (code = 0x04#8 ∧ op = 0x11#8) ∨ (code = 0x05#8 ∧ op = 0x10#8) ∨
  (code = 0x06#8 ∧ op = 0x30#8)

/-- The selects that name a register (10_state.md R31). -/
def assignedSelects : List Byte :=
  [0x00#8, 0x01#8, 0x02#8, 0x03#8, 0x04#8, 0x05#8, 0x06#8, 0x08#8, 0x09#8, 0x0A#8, 0x0B#8,
   0x10#8, 0x11#8, 0x12#8, 0x13#8, 0x14#8, 0x15#8]

/-- What an event may be (41_framer.md R124, R125; 42_deframer.md R148, R150; R31; R191). -/
def LegalEvent (cfg : Config) : Event → Prop
  | .txFrame bytes =>
    ∃ (mtype id : Byte) (body : List Byte),
      id ≠ 0#8 ∧ body.length ≤ 65535 ∧ bytes = frameBytes cfg mtype id body
  | .rxFrame addr0 addr1 id mtype len body crc ok =>
    body.length = len.toNat ∧ crc = crc16 ([addr0, addr1, id, mtype] ++ u16be len ++ body) ∧
      (ok = true ∨ cfg.hdrMismatchDelivers = true) ∧ (ok = true → addr1 = cfg.rxAddr)
  | .rxCrcError hdr _ crcRx crcCalc ok =>
    crcRx ≠ crcCalc ∧ ok = hdrOk cfg hdr.magic0 hdr.magic1 hdr.addr1
  | .rxHeaderError hdr len crc =>
    hdrOk cfg hdr.magic0 hdr.magic1 hdr.addr1 = false ∧ cfg.hdrMismatchDelivers = false ∧
      ∃ body : List Byte, body.length = len.toNat ∧ crc = crc16 (hdr.tail ++ u16be len ++ body)
  | .crcValue _ => True
  | .regValue sel _ => sel ∈ assignedSelects
  | .cmdError op code => LegalError op code

/-- Every event of the trace is one a run may show. -/
def State.TraceLegal (s : State) : Prop := ∀ e ∈ s.events, LegalEvent s.cfg e

/-! ### The parts of the engine (00_scope.md R1) -/

/-- The three functional parts and the control part. -/
inductive Part where
  | checksum
  | framer
  | deframer
  | control
  deriving DecidableEq, Repr

/-- The part a command belongs to, by its opcode's group (30_encoding.md R82). -/
def mnemonicPart : Mnemonic → Part
  | .nop => .control
  | .crcInit => .checksum
  | .crcFeed => .checksum
  | .crcRead => .checksum
  | .txStart => .framer
  | .txData => .framer
  | .txAbort => .framer
  | .rxByte => .deframer
  | .rxFlush => .deframer
  | .regRead => .control

/-- The part a command belongs to. -/
def commandPart (i : Instr) : Part := mnemonicPart i.mnemonic

/-- The part an event reports on (10_state.md R35). An error belongs to the part of its command, and an
opcode of no command to the control part. The model's own bookkeeping for claims (log 13). -/
def Event.part : Event → Part
  | .txFrame _ => .framer
  | .rxFrame _ _ _ _ _ _ _ _ => .deframer
  | .rxCrcError _ _ _ _ _ => .deframer
  | .rxHeaderError _ _ _ => .deframer
  | .crcValue _ => .checksum
  | .regValue _ _ => .control
  | .cmdError op _ =>
    match Mnemonic.ofOp op with
    | some m => mnemonicPart m
    | none => .control

/-- The events of one part, in order. -/
def eventsOf (p : Part) (es : List Event) : List Event := es.filter (fun e => decide (e.part = p))

/-- Two states hold the same registers and buffers of one part; the control part has none. -/
def SamePart (p : Part) (s t : State) : Prop :=
  match p with
  | .checksum => s.crcAcc = t.crcAcc
  | .framer => s.tx = t.tx
  | .deframer => s.rx = t.rx
  | .control => True

/-! ### Frames: what two states share -/

/-- The framer's registers and every byte of `TX_BUF` are the same. -/
def SameFramer (s t : State) : Prop :=
  t.tx.busy = s.tx.busy ∧ t.tx.mtype = s.tx.mtype ∧ t.tx.id = s.tx.id ∧ t.tx.len = s.tx.len ∧
  t.tx.rem = s.tx.rem ∧ t.tx.crc = s.tx.crc ∧ ∀ a, t.tx.buf.read a = s.tx.buf.read a

/-- The deframer's registers and every byte of `RX_BUF` are the same. -/
def SameDeframer (s t : State) : Prop :=
  t.rx.state = s.rx.state ∧ t.rx.cnt = s.rx.cnt ∧ t.rx.hdr = s.rx.hdr ∧ t.rx.len = s.rx.len ∧
  t.rx.crc = s.rx.crc ∧ t.rx.crcHi = s.rx.crcHi ∧ t.rx.hdrBad = s.rx.hdrBad ∧
  ∀ a, t.rx.buf.read a = s.rx.buf.read a

/-- The configuration and the inputs to come are the same. -/
def SamePorts (s t : State) : Prop := t.cfg = s.cfg ∧ t.inputs = s.inputs

/-! ### Buffer bytes that no command has written in the current frame -/

/-- How many bytes of `TX_BUF` belong to the open frame (R24). -/
def Framer.written (tx : Framer) : Nat := if tx.busy then txIndex tx else 0

/-- How many bytes of `RX_BUF` belong to the frame in progress (42_deframer.md R145). -/
def Deframer.written (rx : Deframer) : Nat :=
  match rx.state with
  | .awaitingHeader => 0
  | .awaitingLength => 0
  | .awaitingBody => rx.cnt.toNat
  | .awaitingCrc => rx.len.toNat

/-- Two states that differ at most in buffer bytes not written in the current frame. -/
def SameButUnwritten (s t : State) : Prop :=
  t.crcAcc = s.crcAcc ∧ t.cfg = s.cfg ∧ t.events = s.events ∧ t.inputs = s.inputs ∧
  { t.tx with buf := s.tx.buf } = s.tx ∧ (∀ a, a < s.tx.written → t.tx.buf.read a = s.tx.buf.read a) ∧
  { t.rx with buf := s.rx.buf } = s.rx ∧ (∀ a, a < s.rx.written → t.rx.buf.read a = s.rx.buf.read a)

/-! ### Runs of commands -/

/-- Execute commands one after the other, stopping at the first fault or refusal. -/
def execAll : List Instr → State → Host.Outcome State Fault Refusal
  | [], s => .next s
  | i :: rest, s =>
    match exec i s with
    | .next t => execAll rest t
    | .fault r => .fault r
    | .refused r => .refused r

/-- `RX_STREAM` (30_encoding.md R86): one `RX_BYTE` a byte. -/
def rxStream (bs : List Byte) : List Instr := bs.map .rxByte

/-- `TX_FRAME` (R86): `TX_START`, then one `TX_DATA` a body byte. -/
def txFrame (mtype id : Byte) (body : List Byte) : List Instr :=
  .txStart mtype id (BitVec.ofNat 16 body.length) :: body.map .txData

/-- `CRC_OF` (R86): `CRC_INIT`, one `CRC_FEED` a byte, `CRC_READ`. -/
def crcOf (bs : List Byte) : List Instr := .crcInit :: (bs.map .crcFeed ++ [.crcRead])

end Sys2Proof.Machine
end

