-- ==== Sys2Proof/Certificates/Slice0/Obligations.lean ====
section
/-! DEFINITION. The statements for the provers. Each docstring names the rule of spec/ it states, or the
sections it rests on. `s` is the state before, `t` the state after. -/

open Sys2Proof Sys2Proof.Machine

/-! ### Ports, reset and the step -/

/-- R210, R211: the reset input sets every register to its reset value in a step of its own, emits nothing,
removes no event, keeps the parameters; power-on gives the same registers. A command beside it is not taken:
that the word is then dropped, `t.inputs = rest`, and not kept for a later step, is the model's reading of R211
and U8 (log 6), on the model's own list of inputs (log 4). -/
def Obligations.ResetSetsEveryRegister : Prop :=
  let resetValues : State → Prop := fun t =>
    t.crcAcc = 0xFFFF#16 ∧ t.tx.busy = false ∧ t.tx.mtype = 0x00#8 ∧ t.tx.id = 0x00#8 ∧ t.tx.len = 0x0000#16 ∧
    t.tx.rem = 0x0000#16 ∧ t.tx.crc = 0xFFFF#16 ∧ t.rx.state = .awaitingHeader ∧ t.rx.cnt = 0x0000#16 ∧
    t.rx.hdr.toList = [0x00#8, 0x00#8, 0x00#8, 0x00#8, 0x00#8, 0x00#8] ∧ t.rx.len = 0x0000#16 ∧
    t.rx.crc = 0xFFFF#16 ∧ t.rx.crcHi = 0x00#8 ∧ t.rx.hdrBad = false ∧ statusWord t = 0x00000000#32
  resetValues State.reset ∧
  ∀ (s : State) (command : Option CmdWord) (rest : List PortInput), s.inputs = ⟨true, command⟩ :: rest →
    ∃ t, step s = .next t ∧ resetValues t ∧ t.events = s.events ∧ t.cfg = s.cfg ∧ t.inputs = rest

/-- The invariants of R24 and R27 hold at power-on, and the trace is empty, so legal (log 9: that no event has
been emitted yet is the model's deduction). -/
def Obligations.ResetMeetsTheInvariant : Prop :=
  State.reset.Inv ∧ State.reset.events = [] ∧ State.reset.TraceLegal

/-- A step executes the command its word decodes to, on the state with that input taken; a step with no
command changes nothing (the model's reading, log 5). -/
def Obligations.StepRunsTheDecodedCommand : Prop :=
  (∀ (s : State) (w : CmdWord) (rest : List PortInput) (i : Instr),
    s.inputs = ⟨false, some w⟩ :: rest → decode w = .ok i → step s = exec i { s with inputs := rest }) ∧
  (∀ (s : State) (rest : List PortInput),
    s.inputs = ⟨false, none⟩ :: rest → step s = .next { s with inputs := rest }) ∧
  (∀ s : State, s.inputs = [] → step s = .next s)

/-- R83, R84: an unassigned opcode raises `ILLEGAL_OPCODE`, whatever the argument; an assigned one with a
reserved argument bit set raises `RESERVED_BITS`; neither changes anything but the event port; every other
word is a command, which is executed. -/
def Obligations.WordsDecodeOrRaiseTheirError : Prop :=
  ∀ (s : State) (w : CmdWord) (rest : List PortInput), s.inputs = ⟨false, some w⟩ :: rest →
    let op : Byte := w.extractLsb' 32 8
    let reservedBitSet : Prop :=
      (op ∈ [0x00#8, 0x01#8, 0x03#8, 0x12#8, 0x21#8] ∧ w.extractLsb' 0 32 ≠ 0#32) ∨
      (op ∈ [0x02#8, 0x11#8, 0x20#8, 0x30#8] ∧ w.extractLsb' 8 24 ≠ 0#24)
    (op ∉ assignedOps → step s = .next { s with inputs := rest, events := s.events ++ [.cmdError op 0x01#8] }) ∧
    (reservedBitSet → step s = .next { s with inputs := rest, events := s.events ++ [.cmdError op 0x02#8] }) ∧
    (op ∈ assignedOps → ¬reservedBitSet →
      ∃ i, decode w = .ok i ∧ i.mnemonic.op = op ∧ step s = exec i { s with inputs := rest })

/-! ### Encodings -/

/-- Every well-formed command decodes from its own word, with every operand at every value, and the word
fits the match and mask columns of R82. -/
def Obligations.DecodeOfEncode : Prop :=
  ∀ i : Instr, i.wellFormed = true →
    decode (encode i) = .ok i ∧ encode i &&& i.mnemonic.maskWord = i.mnemonic.matchWord

/-- Every word the decoder takes is the word of the command it gives. -/
def Obligations.EncodeOfDecode : Prop :=
  ∀ (w : CmdWord) (i : Instr), decode w = .ok i → encode i = w

/-- Every word that 30_encoding.md section 4 and 95_test_vectors.md sections 5 and 6 write out decodes to the
command, or the error, written beside it. P3 and P4 write their `RX_BYTE` words as `20000000bb` for each byte. -/
def Obligations.SpecWordsDecode : Prop :=
  -- 30_encoding.md section 4, and the all-zero word of R170
  (decode 0x0200000031#40 = .ok (.crcFeed 0x31#8) ∧ decode 0x10C0010003#40 = .ok (.txStart 0xC0#8 0x01#8 3#16) ∧
    decode 0x2000000055#40 = .ok (.rxByte 0x55#8) ∧ decode 0x300000000A#40 = .ok (.regRead 0x0A#8) ∧
    decode 0x0000000000#40 = .ok .nop) ∧
  -- 95_test_vectors.md section 5, in its order
  (decode 0x1100000001#40 = .ok (.txData 0x01#8) ∧ decode 0x10C0000001#40 = .ok (.txStart 0xC0#8 0x00#8 1#16) ∧
    decode 0x10C0010002#40 = .ok (.txStart 0xC0#8 0x01#8 2#16) ∧
    decode 0x10C0020001#40 = .ok (.txStart 0xC0#8 0x02#8 1#16) ∧
    decode 0x11000000AA#40 = .ok (.txData 0xAA#8) ∧ decode 0x11000000BB#40 = .ok (.txData 0xBB#8) ∧
    decode 0x11000000CC#40 = .ok (.txData 0xCC#8) ∧ decode 0x0000000001#40 = .error .reservedBits ∧
    decode 0x0400000000#40 = .error .illegalOpcode ∧ decode 0xFFFFFFFFFF#40 = .error .illegalOpcode ∧
    decode 0x3000000007#40 = .ok (.regRead 0x07#8) ∧ decode 0x3000000016#40 = .ok (.regRead 0x16#8) ∧
    decode 0x3000000100#40 = .error .reservedBits ∧ decode 0x1200000000#40 = .ok .txAbort ∧
    decode 0x0380000000#40 = .error .reservedBits) ∧
  -- P1
  (decode 0x0100000000#40 = .ok .crcInit ∧ decode 0x0200000032#40 = .ok (.crcFeed 0x32#8) ∧
    decode 0x0200000033#40 = .ok (.crcFeed 0x33#8) ∧ decode 0x0200000034#40 = .ok (.crcFeed 0x34#8) ∧
    decode 0x0200000035#40 = .ok (.crcFeed 0x35#8) ∧ decode 0x0200000036#40 = .ok (.crcFeed 0x36#8) ∧
    decode 0x0200000037#40 = .ok (.crcFeed 0x37#8) ∧ decode 0x0200000038#40 = .ok (.crcFeed 0x38#8) ∧
    decode 0x0200000039#40 = .ok (.crcFeed 0x39#8) ∧ decode 0x0300000000#40 = .ok .crcRead) ∧
  -- P2
  (decode 0x10C0010008#40 = .ok (.txStart 0xC0#8 0x01#8 8#16) ∧ decode 0x1100000021#40 = .ok (.txData 0x21#8) ∧
    decode 0x1100000000#40 = .ok (.txData 0x00#8) ∧ decode 0x3000000006#40 = .ok (.regRead 0x06#8) ∧
    decode 0x3000000000#40 = .ok (.regRead 0x00#8)) ∧
  -- P2 to P5, each received byte
  (∀ b : Byte, decode (0x20000000#32 ++ b) = .ok (.rxByte b)) ∧
  -- P4 and P5
  (decode 0x3000000009#40 = .ok (.regRead 0x09#8) ∧ decode 0x2100000000#40 = .ok .rxFlush ∧
    decode 0x101F800002#40 = .ok (.txStart 0x1F#8 0x80#8 2#16) ∧ decode 0x0200000001#40 = .ok (.crcFeed 0x01#8) ∧
    decode 0x10C0050000#40 = .ok (.txStart 0xC0#8 0x05#8 0#16) ∧
    decode 0x9900000000#40 = .error .illegalOpcode)

/-- R85: a written command whose operands fit its fields stands for one command, which writes out as it was
written; one whose operands do not fit, or are too many or too few, gives no word. -/
def Obligations.WrittenCommandsAssembleOrErr : Prop :=
  ∀ src : SourceInstr,
    (src.wellFormed = true → ∃ i : Instr, i.source = src ∧
      (Statement.command src).assemble = some [encode i] ∧ decode (encode i) = .ok i) ∧
    (src.wellFormed = false → (Statement.command src).assemble = none)

/-- R86: the pseudo-instructions stand for the command sequences of the table, and `TX_FRAME` needs a body
of at most 65535 bytes. -/
def Obligations.PseudoInstructionsExpand : Prop :=
  ∀ (bs : List Byte) (mtype id : Byte),
    let numbers := bs.map BitVec.toNat
    (Statement.crcBlock numbers).commands = some (.crcInit :: bs.map .crcFeed) ∧
    (Statement.crcOf numbers).commands = some (.crcInit :: (bs.map .crcFeed ++ [.crcRead])) ∧
    (bs.length ≤ 65535 → (Statement.txFrame mtype.toNat id.toNat numbers).commands =
      some (.txStart mtype id (BitVec.ofNat 16 bs.length) :: bs.map .txData)) ∧
    (65535 < bs.length → (Statement.txFrame mtype.toNat id.toNat numbers).commands = none) ∧
    (Statement.rxStream numbers).commands = some (bs.map .rxByte) ∧
    Statement.status.commands = some [.regRead 0x00#8]

/-! ### The CRC function -/

/-- R100: the byte enters the low 8 bits, then eight times: test bit 0, shift right, XOR 0xA001 if it was 1. -/
def Obligations.CrcByteIsEightShiftXorSteps : Prop :=
  ∀ (c : Half) (d : Byte),
    crcByte c d = (List.range 8).foldl
      (fun c _ => if c &&& 1#16 = 1#16 then (c >>> 1) ^^^ 0xA001#16 else c >>> 1) (c ^^^ d.setWidth 16)

/-- The CRC step is linear over XOR. -/
def Obligations.CrcByteIsXorLinear : Prop :=
  ∀ (a b : Half) (x y : Byte), crcByte (a ^^^ b) (x ^^^ y) = crcByte a x ^^^ crcByte b y

/-- Two byte sequences that differ in exactly one byte have different CRCs. -/
def Obligations.CrcDetectsOneChangedByte : Prop :=
  ∀ (before after : List Byte) (x y : Byte), x ≠ y →
    crc16 (before ++ x :: after) ≠ crc16 (before ++ y :: after)

/-- R102, R103: the CRC of no byte is 0xFFFF, and the CRC of `a ++ b` is the fold of `crc_byte` over `b`
from the CRC of `a`. -/
def Obligations.CrcContinuesAcrossAppend : Prop :=
  crc16 [] = 0xFFFF#16 ∧ ∀ a b : List Byte, crc16 (a ++ b) = b.foldl crcByte (crc16 a)

/-! ### The checksum engine's commands -/

/-- R170: `NOP` is the all-zero word and does nothing; a word with its opcode and a non-zero argument is no
command, and the step that takes it raises `RESERVED_BITS`. -/
def Obligations.NopChangesNothing : Prop :=
  decode 0#40 = .ok .nop ∧ (∀ s : State, exec .nop s = .next s) ∧
  ∀ (s : State) (w : CmdWord) (rest : List PortInput), s.inputs = ⟨false, some w⟩ :: rest →
    w.extractLsb' 32 8 = 0x00#8 → w ≠ 0#40 →
    decode w = .error .reservedBits ∧
      step s = .next { s with inputs := rest, events := s.events ++ [.cmdError 0x00#8 0x02#8] }

/-- R104: `CRC_INIT` writes 0xFFFF to `CRC_ACC` and nothing else. -/
def Obligations.CrcInitStartsANewCrc : Prop :=
  decode 0x0100000000#40 = .ok .crcInit ∧
  ∀ s : State, exec .crcInit s = .next { s with crcAcc := 0xFFFF#16 }

/-- R105: `CRC_FEED d8` writes `crc_byte(CRC_ACC, d8)` to `CRC_ACC` and nothing else. -/
def Obligations.CrcFeedAddsOneByte : Prop :=
  (∀ d8 : Byte, decode ((0x02#8 ++ 0#24) ++ d8) = .ok (.crcFeed d8)) ∧
  (∀ (s : State) (d8 : Byte), exec (.crcFeed d8) s = .next { s with crcAcc := crcByte s.crcAcc d8 }) ∧
  crcByte 0xFFFF#16 0x01#8 = 0x807E#16 ∧ crcByte 0x0000#16 0x00#8 = 0x0000#16

/-- R106: `CRC_READ` emits one `CrcValue` that holds `CRC_ACC` and changes nothing else. -/
def Obligations.CrcReadReportsTheAccumulator : Prop :=
  decode 0x0300000000#40 = .ok .crcRead ∧
  (∀ s : State, exec .crcRead s = .next { s with events := s.events ++ [.crcValue s.crcAcc] }) ∧
  ∀ s : State, execAll [.crcInit, .crcRead] s =
    .next { s with crcAcc := 0xFFFF#16, events := s.events ++ [.crcValue 0xFFFF#16] }

/-- R108: `CRC_BLOCK` of any bytes and then `CRC_READ` reports `crc16` of them, from every state. -/
def Obligations.CrcOfReportsTheCrcOfItsBytes : Prop :=
  ∀ (s : State) (bs : List Byte),
    execAll (crcOf bs) s =
      .next { s with crcAcc := crc16 bs, events := s.events ++ [.crcValue (crc16 bs)] }

/-! ### The framer's commands -/

/-- R121: `TX_START` refuses while a frame is open, then refuses id 0; else it sends the whole empty frame,
or opens the frame. -/
def Obligations.TxStartFollowsItsRule : Prop :=
  (∀ (mtype id : Byte) (len : Half),
    decode (((0x10#8 ++ mtype) ++ id) ++ len) = .ok (.txStart mtype id len)) ∧
  ∀ (s : State) (mtype id : Byte) (len : Half),
    let c := crc16 [s.cfg.txAddr0, s.cfg.txAddr1, id, mtype, len.extractLsb' 8 8, len.extractLsb' 0 8]
    (s.tx.busy = true →
      exec (.txStart mtype id len) s = .next { s with events := s.events ++ [.cmdError 0x10#8 0x03#8] }) ∧
    (s.tx.busy = false → id = 0#8 →
      exec (.txStart mtype id len) s = .next { s with events := s.events ++ [.cmdError 0x10#8 0x05#8] }) ∧
    (s.tx.busy = false → id ≠ 0#8 → len = 0#16 →
      exec (.txStart mtype id len) s = .next { s with
        tx := { s.tx with mtype := mtype, id := id, len := len, crc := c, busy := false, rem := 0#16 }
        events := s.events ++ [.txFrame ([s.cfg.hdrMagic0, s.cfg.hdrMagic1, s.cfg.txAddr0, s.cfg.txAddr1,
          id, mtype, 0x00#8, 0x00#8] ++ [c.extractLsb' 8 8, c.extractLsb' 0 8])] }) ∧
    (s.tx.busy = false → id ≠ 0#8 → len ≠ 0#16 →
      exec (.txStart mtype id len) s = .next { s with
        tx := { s.tx with mtype := mtype, id := id, len := len, crc := c, busy := true, rem := len } })

/-- R122: `TX_DATA` refuses when no frame is open; else it stores the byte at index `TX_LEN - TX_REM`, adds it
to the CRC and counts it, and on the last byte sends the frame and closes it. -/
def Obligations.TxDataFollowsItsRule : Prop :=
  (∀ d8 : Byte, decode ((0x11#8 ++ 0#24) ++ d8) = .ok (.txData d8)) ∧
  (∀ (s : State) (d8 : Byte), s.tx.busy = false →
    exec (.txData d8) s = .next { s with events := s.events ++ [.cmdError 0x11#8 0x04#8] }) ∧
  ∀ (s : State) (d8 : Byte), s.tx.busy = true → 1 ≤ s.tx.rem.toNat → s.tx.rem.toNat ≤ s.tx.len.toNat →
    s.tx.buf.wf = true →
    let i := s.tx.len.toNat - s.tx.rem.toNat
    let c := crcByte s.tx.crc d8
    ∃ t, exec (.txData d8) s = .next t ∧
      t.tx.buf.read i = d8 ∧ (∀ a, a ≠ i → t.tx.buf.read a = s.tx.buf.read a) ∧
      t.tx.crc = c ∧ t.tx.rem.toNat = s.tx.rem.toNat - 1 ∧
      t.tx.mtype = s.tx.mtype ∧ t.tx.id = s.tx.id ∧ t.tx.len = s.tx.len ∧
      t.crcAcc = s.crcAcc ∧ t.rx = s.rx ∧ t.cfg = s.cfg ∧ t.inputs = s.inputs ∧
      (s.tx.rem.toNat = 1 → t.tx.busy = false ∧
        t.events = s.events ++ [.txFrame ([s.cfg.hdrMagic0, s.cfg.hdrMagic1, s.cfg.txAddr0, s.cfg.txAddr1,
          s.tx.id, s.tx.mtype] ++ [s.tx.len.extractLsb' 8 8, s.tx.len.extractLsb' 0 8] ++
          ((List.range i).map s.tx.buf.read ++ [d8]) ++ [c.extractLsb' 8 8, c.extractLsb' 0 8])]) ∧
      (s.tx.rem.toNat ≠ 1 → t.tx.busy = true ∧ t.events = s.events)

/-- R123: `TX_ABORT` clears `TX_BUSY` and `TX_REM`, keeps everything else and emits nothing; with no open
frame, in a state of R24, it changes nothing. -/
def Obligations.TxAbortDropsTheOpenFrame : Prop :=
  decode 0x1200000000#40 = .ok .txAbort ∧
  (∀ s : State, exec .txAbort s = .next { s with tx := { s.tx with busy := false, rem := 0#16 } }) ∧
  ∀ s : State, s.Inv → s.tx.busy = false → exec .txAbort s = .next s

/-- R126: from an idle framer, the commands of `TX_FRAME` with a non-zero id, with any commands of other parts
in between, emit exactly one framer event, the frame of R120, and leave the framer as R126 says. Which commands
and events are the framer's is the model's bookkeeping, `commandPart` and `Event.part` (log 13). -/
def Obligations.TxFrameCommandsSendOneFrame : Prop :=
  ∀ (s : State) (mtype id : Byte) (body : List Byte) (is : List Instr),
    s.Inv → s.tx.busy = false → id ≠ 0#8 → body.length ≤ 65535 →
    is.filter (fun i => decide (commandPart i = .framer)) = txFrame mtype id body →
    ∃ t, execAll is s = .next t ∧
      eventsOf .framer t.events = eventsOf .framer s.events ++ [.txFrame (frameBytes s.cfg mtype id body)] ∧
      t.tx.busy = false ∧ t.tx.rem = 0#16 ∧ t.tx.mtype = mtype ∧ t.tx.id = id ∧
      t.tx.len.toNat = body.length ∧
      t.tx.crc = crc16 ([s.cfg.txAddr0, s.cfg.txAddr1, id, mtype] ++ u16be (BitVec.ofNat 16 body.length) ++ body)

/-- R57, R213: after `TX_START` and fewer than `len` bytes, nothing has been sent, the frame is open and
`TX_REM` counts the bytes still to come. -/
def Obligations.AnUnfinishedFrameSendsNothing : Prop :=
  ∀ (s : State) (mtype id : Byte) (len : Half) (bs : List Byte),
    s.tx.busy = false → id ≠ 0#8 → bs.length < len.toNat →
    ∃ t, execAll (.txStart mtype id len :: bs.map .txData) s = .next t ∧
      t.events = s.events ∧ t.tx.busy = true ∧ t.tx.rem.toNat = len.toNat - bs.length

/-- R120: the frame of a type, an id and a body has ten bytes more than the body, the big-endian length in
bytes 6 and 7, and in its last two bytes the CRC of bytes 2 to `7 + L`. -/
def Obligations.FrameBytesCarryTheirLengthAndCrc : Prop :=
  ∀ (cfg : Config) (mtype id : Byte) (body : List Byte), body.length ≤ 65535 →
    let f := frameBytes cfg mtype id body
    let L := body.length
    f.length = 10 + L ∧
    f.take 6 = [cfg.hdrMagic0, cfg.hdrMagic1, cfg.txAddr0, cfg.txAddr1, id, mtype] ∧
    (be16 (f.getD 6 0) (f.getD 7 0)).toNat = L ∧ (f.drop 8).take L = body ∧
    be16 (f.getD (8 + L) 0) (f.getD (9 + L) 0) = crc16 ((f.drop 2).take (6 + L))

/-- R127: a frame the framer emits carries its own length and the CRC of its covered bytes, and a deframer at
the start of a frame, with the same magic and `RX_ADDR = TX_ADDR1`, delivers it with its own fields. -/
def Obligations.EmittedFrameLoopsBack : Prop :=
  ∀ (s t : State) (i : Instr) (bytes : List Byte),
    s.Inv → exec i s = .next t → t.events = s.events ++ [.txFrame bytes] →
    let L := bytes.length - 10
    be16 (bytes.getD (8 + L) 0) (bytes.getD (9 + L) 0) = crc16 ((bytes.drop 2).take (6 + L)) ∧
    (be16 (bytes.getD 6 0) (bytes.getD 7 0)).toNat = L ∧
    ∀ r : State, r.Inv → r.rx.state = .awaitingHeader → r.rx.cnt = 0#16 →
      r.cfg.hdrMagic0 = s.cfg.hdrMagic0 → r.cfg.hdrMagic1 = s.cfg.hdrMagic1 → r.cfg.rxAddr = s.cfg.txAddr1 →
      ∃ u, execAll (rxStream bytes) r = .next u ∧
        u.events = r.events ++ [.rxFrame (bytes.getD 2 0) (bytes.getD 3 0) (bytes.getD 4 0) (bytes.getD 5 0)
          (BitVec.ofNat 16 L) ((bytes.drop 8).take L) (be16 (bytes.getD (8 + L) 0) (bytes.getD (9 + L) 0)) true]

/-! ### The deframer's commands -/

/-- R141, R142: header bytes 0 to 4 are stored, and enter the CRC from byte 2 on; header byte 5 is stored,
enters the CRC, validates the header and starts the length. -/
def Obligations.RxHeaderBytesFollowTheirRules : Prop :=
  (∀ (s : State) (d8 : Byte), s.rx.state = .awaitingHeader → s.rx.cnt.toNat ≤ 4 →
    ∃ t, exec (.rxByte d8) s = .next t ∧
      t.rx.hdr.toList = s.rx.hdr.toList.set s.rx.cnt.toNat d8 ∧
      t.rx.crc = (if 2 ≤ s.rx.cnt.toNat then crcByte s.rx.crc d8 else s.rx.crc) ∧
      t.rx.cnt.toNat = s.rx.cnt.toNat + 1 ∧
      t = { s with rx := { s.rx with hdr := t.rx.hdr, crc := t.rx.crc, cnt := t.rx.cnt } }) ∧
  (∀ (s : State) (d8 : Byte), s.rx.state = .awaitingHeader → s.rx.cnt = 5#16 →
    exec (.rxByte d8) s = .next { s with rx := { s.rx with
      hdr := { s.rx.hdr with mtype := d8 }
      crc := crcByte s.rx.crc d8
      hdrBad := !hdrOk s.cfg s.rx.hdr.magic0 s.rx.hdr.magic1 s.rx.hdr.addr1
      state := .awaitingLength
      cnt := 0#16 } })

/-- R143, R144: the length is read high byte first, both bytes enter the CRC, and a zero length skips the
body. -/
def Obligations.RxLengthBytesFollowTheirRules : Prop :=
  (∀ (s : State) (d8 : Byte), s.rx.state = .awaitingLength → s.rx.cnt = 0#16 →
    exec (.rxByte d8) s = .next { s with rx := { s.rx with
      len := d8 ++ 0x00#8, crc := crcByte s.rx.crc d8, cnt := 1#16 } }) ∧
  (∀ (s : State) (d8 : Byte), s.rx.state = .awaitingLength → s.rx.cnt = 1#16 →
    let L : Half := s.rx.len.extractLsb' 8 8 ++ d8
    exec (.rxByte d8) s = .next { s with rx := { s.rx with
      len := L, crc := crcByte s.rx.crc d8, cnt := 0#16,
      state := if L = 0#16 then .awaitingCrc else .awaitingBody } })

/-- R145: a body byte of any value is stored at index `RX_CNT` and enters the CRC; the last one starts the
CRC field. -/
def Obligations.RxBodyByteFollowsItsRule : Prop :=
  ∀ (s : State) (d8 : Byte), s.rx.state = .awaitingBody → 1 ≤ s.rx.len.toNat →
    s.rx.cnt.toNat ≤ s.rx.len.toNat - 1 → s.rx.buf.wf = true →
    ∃ t, exec (.rxByte d8) s = .next t ∧
      t.rx.buf.read s.rx.cnt.toNat = d8 ∧
      (∀ a, a ≠ s.rx.cnt.toNat → t.rx.buf.read a = s.rx.buf.read a) ∧
      t.rx.crc = crcByte s.rx.crc d8 ∧
      (s.rx.cnt.toNat = s.rx.len.toNat - 1 → t.rx.state = .awaitingCrc ∧ t.rx.cnt = 0#16) ∧
      (s.rx.cnt.toNat ≠ s.rx.len.toNat - 1 →
        t.rx.state = .awaitingBody ∧ t.rx.cnt.toNat = s.rx.cnt.toNat + 1) ∧
      t = { s with rx := { s.rx with
        buf := t.rx.buf, crc := t.rx.crc, state := t.rx.state, cnt := t.rx.cnt } }

/-- R146, R147, R148: the first CRC byte is held and stays out of the CRC; the second completes the frame
with exactly one event, a CRC mismatch reported before a header mismatch, and returns to the start of a
frame. -/
def Obligations.RxCrcBytesCompleteTheFrame : Prop :=
  (∀ (s : State) (d8 : Byte), s.rx.state = .awaitingCrc → s.rx.cnt = 0#16 →
    exec (.rxByte d8) s = .next { s with rx := { s.rx with crcHi := d8, cnt := 1#16 } }) ∧
  (∀ (s : State) (d8 : Byte), s.rx.state = .awaitingCrc → s.rx.cnt = 1#16 →
    let crcRx : Half := s.rx.crcHi ++ d8
    let ok := !s.rx.hdrBad
    ∃ e, exec (.rxByte d8) s = .next { s with
        rx := { s.rx with state := .awaitingHeader, cnt := 0#16, crc := 0xFFFF#16, hdrBad := false }
        events := s.events ++ [e] } ∧
      (crcRx ≠ s.rx.crc → e = .rxCrcError s.rx.hdr s.rx.len crcRx s.rx.crc ok) ∧
      (crcRx = s.rx.crc → (ok = true ∨ s.cfg.hdrMismatchDelivers = true) →
        e = .rxFrame s.rx.hdr.addr0 s.rx.hdr.addr1 s.rx.hdr.id s.rx.hdr.mtype s.rx.len
          ((List.range s.rx.len.toNat).map s.rx.buf.read) crcRx ok) ∧
      (crcRx = s.rx.crc → ok = false → s.cfg.hdrMismatchDelivers = false →
        e = .rxHeaderError s.rx.hdr s.rx.len crcRx))

/-- R149: `RX_FLUSH` makes its four writes, keeps everything else and emits nothing; at the start of a frame,
in a state of R27, it changes nothing. -/
def Obligations.RxFlushRestartsTheDeframer : Prop :=
  decode 0x2100000000#40 = .ok .rxFlush ∧
  (∀ s : State, exec .rxFlush s = .next { s with
    rx := { s.rx with state := .awaitingHeader, cnt := 0#16, crc := 0xFFFF#16, hdrBad := false } }) ∧
  ∀ s : State, s.Inv → s.rx.state = .awaitingHeader → s.rx.cnt = 0#16 → exec .rxFlush s = .next s

/-- R152: fed any bytes from the start of a frame, the deframer emits exactly the events of `deframe`, where
`deframe` gives nothing for a partial frame, else the outcome of the first whole frame and then the events of
the rest. -/
def Obligations.DeframerComputesDeframe : Prop :=
  (∀ (s : State) (bs : List Byte), s.Inv → s.rx.state = .awaitingHeader → s.rx.cnt = 0#16 →
    ∃ t, execAll (rxStream bs) s = .next t ∧ t.events = s.events ++ deframe s.cfg bs) ∧
  ∀ (cfg : Config) (s : List Byte),
    let L := (be16 (s.getD 6 0) (s.getD 7 0)).toNat
    (s.length < 8 → deframe cfg s = []) ∧
    (8 ≤ s.length → s.length < 10 + L → deframe cfg s = []) ∧
    (10 + L ≤ s.length → ∃ e, deframe cfg s = e :: deframe cfg (s.drop (10 + L)) ∧
      let hdr : Header := ⟨s.getD 0 0, s.getD 1 0, s.getD 2 0, s.getD 3 0, s.getD 4 0, s.getD 5 0⟩
      let crcRx := be16 (s.getD (8 + L) 0) (s.getD (9 + L) 0)
      let crcCalc := crc16 ((s.drop 2).take (6 + L))
      let ok := hdrOk cfg hdr.magic0 hdr.magic1 hdr.addr1
      (crcRx ≠ crcCalc → e = .rxCrcError hdr (BitVec.ofNat 16 L) crcRx crcCalc ok) ∧
      (crcRx = crcCalc → (ok = true ∨ cfg.hdrMismatchDelivers = true) →
        e = .rxFrame hdr.addr0 hdr.addr1 hdr.id hdr.mtype (BitVec.ofNat 16 L) ((s.drop 8).take L) crcRx ok) ∧
      (crcRx = crcCalc → ok = false → cfg.hdrMismatchDelivers = false →
        e = .rxHeaderError hdr (BitVec.ofNat 16 L) crcRx))

/-- R151: the deframer's place in the stream moves by counting alone: it depends on the byte only as a length
byte, and not on the header bytes, the magic, the addresses or the CRC. Outside `AWAITING_LENGTH` the two states
take two bytes that need not be equal. -/
def Obligations.FrameBoundariesComeFromCountingAlone : Prop :=
  ∀ (s s' t : State) (d8 d8' : Byte),
    s'.rx.state = s.rx.state → s'.rx.cnt = s.rx.cnt → s'.rx.len = s.rx.len →
    (s.rx.state = .awaitingLength → d8' = d8) → exec (.rxByte d8) s = .next t →
    ∃ t', exec (.rxByte d8') s' = .next t' ∧
      t'.rx.state = t.rx.state ∧ t'.rx.cnt = t.rx.cnt ∧ t'.rx.len = t.rx.len

/-- R149, R151, R212: after `RX_FLUSH`, from any reachable state, the next byte is header byte 0, so the
stream that follows is deframed whole. -/
def Obligations.RxFlushRealignsTheStream : Prop :=
  ∀ (s : State) (bs : List Byte), s.Inv →
    ∃ t, execAll (.rxFlush :: rxStream bs) s = .next t ∧ t.events = s.events ++ deframe s.cfg bs

/-- R153, R154: a whole frame with the right magic, address and CRC is delivered with every id, every type and
every body unchanged, the empty body included. -/
def Obligations.EveryGoodFrameIsDelivered : Prop :=
  ∀ (s : State) (addr0 id mtype : Byte) (body : List Byte),
    s.Inv → s.rx.state = .awaitingHeader → s.rx.cnt = 0#16 → body.length ≤ 65535 →
    let len : Half := BitVec.ofNat 16 body.length
    let covered := [addr0, s.cfg.rxAddr, id, mtype] ++ u16be len ++ body
    let frame := [s.cfg.hdrMagic0, s.cfg.hdrMagic1] ++ covered ++ u16be (crc16 covered)
    ∃ t, execAll (rxStream frame) s = .next t ∧
      t.events = s.events ++ [.rxFrame addr0 s.cfg.rxAddr id mtype len body (crc16 covered) true]

/-- R155: with `HDR_MISMATCH_DELIVERS = 0`, a frame with a wrong magic and a matching CRC completes as
`RxHeaderError`; a frame with a wrong address byte 3 does so when its CRC was computed over that byte, and
with any other CRC completes as `RxCrcError`, the CRC computed over the right byte among them. -/
def Obligations.HeaderFaultsAreReportedByTheirCrc : Prop :=
  ∀ (s : State) (hdr : Header) (body : List Byte),
    s.Inv → s.rx.state = .awaitingHeader → s.rx.cnt = 0#16 → body.length ≤ 65535 →
    s.cfg.hdrMismatchDelivers = false →
    let len : Half := BitVec.ofNat 16 body.length
    let crcOver : Header → Half := fun h => crc16 (h.tail ++ u16be len ++ body)
    let completesAs : Half → Event → Prop := fun crcRx e =>
      ∃ t, execAll (rxStream (hdr.toList ++ u16be len ++ body ++ u16be crcRx)) s = .next t ∧
        t.events = s.events ++ [e]
    ((hdr.magic0 ≠ s.cfg.hdrMagic0 ∨ hdr.magic1 ≠ s.cfg.hdrMagic1) →
      completesAs (crcOver hdr) (.rxHeaderError hdr len (crcOver hdr))) ∧
    (hdr.addr1 ≠ s.cfg.rxAddr →
      completesAs (crcOver hdr) (.rxHeaderError hdr len (crcOver hdr)) ∧
      (∀ crcRx, crcRx ≠ crcOver hdr → completesAs crcRx (.rxCrcError hdr len crcRx (crcOver hdr) false)) ∧
      completesAs (crcOver { hdr with addr1 := s.cfg.rxAddr })
        (.rxCrcError hdr len (crcOver { hdr with addr1 := s.cfg.rxAddr }) (crcOver hdr) false))

/-! ### Register reads -/

/-- R171, R31: `REG_READ` of an assigned select reports that register, zero-extended; of any other select it
raises `BAD_REG`; it changes nothing else. -/
def Obligations.RegReadReportsTheSelectedRegister : Prop :=
  (∀ sel : Byte, decode ((0x30#8 ++ 0#24) ++ sel) = .ok (.regRead sel)) ∧
  ∀ (s : State) (sel : Byte),
    let selectMap : List (Byte × Word) :=
      [(0x00#8, statusWord s), (0x01#8, s.crcAcc.setWidth 32), (0x02#8, s.tx.mtype.setWidth 32),
       (0x03#8, s.tx.id.setWidth 32), (0x04#8, s.tx.len.setWidth 32), (0x05#8, s.tx.rem.setWidth 32),
       (0x06#8, s.tx.crc.setWidth 32), (0x08#8, s.rx.cnt.setWidth 32), (0x09#8, s.rx.len.setWidth 32),
       (0x0A#8, s.rx.crc.setWidth 32), (0x0B#8, s.rx.crcHi.setWidth 32), (0x10#8, s.rx.hdr.magic0.setWidth 32),
       (0x11#8, s.rx.hdr.magic1.setWidth 32), (0x12#8, s.rx.hdr.addr0.setWidth 32),
       (0x13#8, s.rx.hdr.addr1.setWidth 32), (0x14#8, s.rx.hdr.id.setWidth 32),
       (0x15#8, s.rx.hdr.mtype.setWidth 32)]
    (∀ p ∈ selectMap,
      exec (.regRead p.1) s = .next { s with events := s.events ++ [.regValue p.1 p.2] }) ∧
    (sel ∉ selectMap.map Prod.fst →
      exec (.regRead sel) s = .next { s with events := s.events ++ [.cmdError 0x30#8 0x06#8] })

/-- R30, R25: bits 1:0 of `STATUS` are `RX_STATE` (0 to 3 in the order of R25), bit 2 is `TX_BUSY`, bit 3 is
`RX_HDR_BAD`, bits 31:4 read 0; after reset it reads 0. -/
def Obligations.StatusWordShowsTheFlags : Prop :=
  statusWord State.reset = 0x00000000#32 ∧
  ∀ s : State,
    (statusWord s).extractLsb' 0 2 = (match s.rx.state with
      | .awaitingHeader => 0#2 | .awaitingLength => 1#2 | .awaitingBody => 2#2 | .awaitingCrc => 3#2) ∧
    (statusWord s).getLsbD 2 = s.tx.busy ∧ (statusWord s).getLsbD 3 = s.rx.hdrBad ∧
    (statusWord s).extractLsb' 4 28 = 0#28

/-- R58: `CRC_READ` and `REG_READ` change no state but the event trace, and a second read at once reports the
same event again. -/
def Obligations.ReadsHaveNoSideEffect : Prop :=
  ∀ (s : State) (i : Instr), (i = .crcRead ∨ ∃ sel, i = .regRead sel) →
    ∃ e, exec i s = .next { s with events := s.events ++ [e] } ∧
      execAll [i, i] s = .next { s with events := s.events ++ [e, e] }

/-! ### Frames: what a command leaves unchanged -/

/-- The commands of the checksum engine and of control leave the framer, the deframer, every buffer byte, the
parameters and the inputs alone; `NOP`, `CRC_READ` and `REG_READ` leave `CRC_ACC` too. -/
def Obligations.ChecksumAndControlCommandsFrame : Prop :=
  ∀ (s t : State) (i : Instr), (commandPart i = .checksum ∨ commandPart i = .control) → exec i s = .next t →
    SameFramer s t ∧ SameDeframer s t ∧ SamePorts s t ∧
    (i ≠ .crcInit → (∀ d8, i ≠ .crcFeed d8) → t.crcAcc = s.crcAcc)

/-- The framer's commands leave `CRC_ACC`, the deframer, every byte of `RX_BUF`, the parameters and the inputs
alone. `TX_START` and `TX_ABORT` store to no buffer byte, nor does `TX_DATA` with no frame open; `TX_DATA`
with one open stores only at index `TX_LEN - TX_REM`. `TX_DATA` and `TX_ABORT` keep `TX_TYPE`, `TX_ID` and
`TX_LEN`, and `TX_ABORT` keeps `TX_CRC`. -/
def Obligations.FramerCommandsFrame : Prop :=
  ∀ (s t : State) (i : Instr), commandPart i = .framer → exec i s = .next t →
    t.crcAcc = s.crcAcc ∧ SameDeframer s t ∧ SamePorts s t ∧
    ((∀ d8, i ≠ .txData d8) → ∀ a, t.tx.buf.read a = s.tx.buf.read a) ∧
    (s.tx.busy = false → ∀ a, t.tx.buf.read a = s.tx.buf.read a) ∧
    (∀ a, a ≠ txIndex s.tx → t.tx.buf.read a = s.tx.buf.read a) ∧
    ((∀ mtype id len, i ≠ .txStart mtype id len) →
      t.tx.mtype = s.tx.mtype ∧ t.tx.id = s.tx.id ∧ t.tx.len = s.tx.len) ∧
    (i = .txAbort → t.tx.crc = s.tx.crc)

/-- The deframer's commands leave `CRC_ACC`, the framer, every byte of `TX_BUF`, the parameters and the inputs
alone. Outside `AWAITING_BODY`, and in `RX_FLUSH`, no byte of `RX_BUF` is stored to; in `AWAITING_BODY`
`RX_BYTE` stores only at index `RX_CNT`. `RX_HDR` changes only in `AWAITING_HEADER`, `RX_LEN` only in
`AWAITING_LENGTH`, `RX_CRC_HI` only in `AWAITING_CRC`, and none of them in `RX_FLUSH`. -/
def Obligations.DeframerCommandsFrame : Prop :=
  ∀ (s t : State) (i : Instr), commandPart i = .deframer → exec i s = .next t →
    t.crcAcc = s.crcAcc ∧ SameFramer s t ∧ SamePorts s t ∧
    ((s.rx.state ≠ .awaitingBody ∨ i = .rxFlush) → ∀ a, t.rx.buf.read a = s.rx.buf.read a) ∧
    (∀ a, a ≠ s.rx.cnt.toNat → t.rx.buf.read a = s.rx.buf.read a) ∧
    ((s.rx.state ≠ .awaitingHeader ∨ i = .rxFlush) → t.rx.hdr = s.rx.hdr) ∧
    ((s.rx.state ≠ .awaitingLength ∨ i = .rxFlush) → t.rx.len = s.rx.len) ∧
    ((s.rx.state ≠ .awaitingCrc ∨ i = .rxFlush) → t.rx.crcHi = s.rx.crcHi)

/-! ### The whole machine -/

/-- Every step keeps the invariants of R24 and R27. -/
def Obligations.StepKeepsTheInvariant : Prop :=
  ∀ s t : State, s.Inv → step s = .next t → t.Inv

/-- In every state of R24 and R27 every step answers a next state, whatever the ports present: the engine
never stops (R190, R197). -/
def Obligations.StepNeverStops : Prop :=
  ∀ s : State, s.Inv → ∃ t, step s = .next t

/-- Every step keeps the trace legal: a sent frame is the frame of R120 with a non-zero id (R124, R125), a
frame outcome is the one R148 chooses, and a `CmdError` has a code and a cause of R191. -/
def Obligations.EveryEventIsLegal : Prop :=
  ∀ s t : State, s.Inv → s.TraceLegal → step s = .next t → t.TraceLegal

/-- R190: a step that emits a `CmdError` took a command word whose opcode field is the event's `op`, and wrote
no other state. -/
def Obligations.ErrorsHaveNoOtherEffect : Prop :=
  ∀ (s t : State) (op code : Byte), step s = .next t → t.events = s.events ++ [.cmdError op code] →
    ∃ (w : CmdWord) (rest : List PortInput), s.inputs = ⟨false, some w⟩ :: rest ∧ op = w.extractLsb' 32 8 ∧
      t = { s with inputs := rest, events := s.events ++ [.cmdError op code] }

/-- Every step appends at most one event to the trace, by the "Events" line of each command's rule, R190 for an
error and R210 for the reset input; it removes none and keeps the parameters (R2). That it takes the first of
the inputs still to come, and with the reset input drops the word beside it, is about the model's own list
(logs 4 and 6). -/
def Obligations.StepAppendsAtMostOneEvent : Prop :=
  ∀ s t : State, step s = .next t →
    (t.events = s.events ∨ ∃ e, t.events = s.events ++ [e]) ∧ t.cfg = s.cfg ∧ t.inputs = s.inputs.tail

/-- R193: a received byte never causes a `CmdError`. -/
def Obligations.ReceivedBytesRaiseNoError : Prop :=
  ∀ (s t : State) (d8 op code : Byte), exec (.rxByte d8) s = .next t →
    t.events ≠ s.events ++ [.cmdError op code]

/-- R61: a command changes the registers of no part but its own, and interleaving commands of different parts
leaves each part's registers and each part's events as they are when that part's commands run alone. Which part
a command and an event belong to is the model's bookkeeping, `commandPart` and `Event.part` (log 13). -/
def Obligations.PartsDoNotInterfere : Prop :=
  (∀ (i : Instr) (s t : State) (p : Part), exec i s = .next t → p ≠ commandPart i → SamePart p s t) ∧
  ∀ (p : Part) (is : List Instr) (s t : State), p ≠ .control → execAll is s = .next t →
    ∃ u, execAll (is.filter (fun i => decide (commandPart i = p))) s = .next u ∧
      SamePart p u t ∧ eventsOf p u.events = eventsOf p t.events

/-- R32: no event and no register read shows a buffer byte that was not written in the current frame: two
states of R24 and R27 that differ only in such bytes take steps to states that differ only in such bytes,
with equal events. -/
def Obligations.UnwrittenBufferBytesAreNeverSeen : Prop :=
  ∀ s s' t : State, s.Inv → s'.Inv → SameButUnwritten s s' → step s = .next t →
    ∃ t', step s' = .next t' ∧ SameButUnwritten t t'

/-- Outside the ranges of R122 and R140, in states R24 and R27 exclude, `TX_DATA` and `RX_BYTE` stop by name
(the model's choice, logs 7 and 8). -/
def Obligations.StatesWithoutARuleStopByName : Prop :=
  (∀ (s : State) (d8 : Byte), s.tx.busy = true →
    (s.tx.rem.toNat = 0 ∨ s.tx.len.toNat < s.tx.rem.toNat) →
    exec (.txData d8) s = .fault .txCountOutOfRange) ∧
  (∀ (s : State) (d8 : Byte),
    (s.rx.state = .awaitingHeader ∧ 5 < s.rx.cnt.toNat ∨ s.rx.state = .awaitingLength ∧ 1 < s.rx.cnt.toNat ∨
      s.rx.state = .awaitingBody ∧ s.rx.len.toNat ≤ s.rx.cnt.toNat ∨
      s.rx.state = .awaitingCrc ∧ 1 < s.rx.cnt.toNat) →
    exec (.rxByte d8) s = .fault .rxCountOutOfRange)
end

