-- ==== Sys2Proof/Laws/Decode.lean ====
section
/-! SUPPORT. The fields of a word, and everything the decoder can answer. -/

namespace Sys2Proof

/-- Two concatenations are equal when their parts are. -/
theorem append_inj {m n : Nat} (a c : BitVec m) (b d : BitVec n) : a ++ b = c ++ d ↔ a = c ∧ b = d := by
  constructor
  · intro h
    have hi := congrArg (BitVec.extractLsb' n m) h
    have lo := congrArg (BitVec.extractLsb' 0 n) h
    rw [BitVec.extractLsb'_append_eq_left, BitVec.extractLsb'_append_eq_left] at hi
    rw [BitVec.extractLsb'_append_eq_right, BitVec.extractLsb'_append_eq_right] at lo
    exact ⟨hi, lo⟩
  · rintro ⟨rfl, rfl⟩
    rfl

/-- `arg = w[31:0]` (30_encoding.md R80). -/
def argField (w : CmdWord) : BitVec 32 := w.extractLsb' 0 32

/-- `arg[31:8]`, which form `B` reserves (R81). -/
def reservedField (w : CmdWord) : BitVec 24 := w.extractLsb' 8 24

/-- A word is its opcode field and its argument field. -/
theorem word_eq_op_arg (w : CmdWord) : opField w ++ argField w = w := by
  unfold opField argField
  rw [BitVec.extractLsb'_append_extractLsb'_eq_extractLsb' (by decide)]
  exact BitVec.extractLsb'_eq_self

/-- A word is its opcode field, its bits 31 to 8 and its low byte. -/
theorem word_eq_op_reserved_d8 (w : CmdWord) : (opField w ++ reservedField w) ++ d8Field w = w := by
  unfold opField reservedField d8Field
  rw [BitVec.extractLsb'_append_extractLsb'_eq_extractLsb' (by decide),
    BitVec.extractLsb'_append_extractLsb'_eq_extractLsb' (by decide)]
  exact BitVec.extractLsb'_eq_self

/-- A word is its opcode field and the three fields of form `S`. -/
theorem word_eq_op_start (w : CmdWord) : ((opField w ++ typeField w) ++ idField w) ++ lenField w = w := by
  unfold opField typeField idField lenField
  rw [BitVec.extractLsb'_append_extractLsb'_eq_extractLsb' (by decide),
    BitVec.extractLsb'_append_extractLsb'_eq_extractLsb' (by decide),
    BitVec.extractLsb'_append_extractLsb'_eq_extractLsb' (by decide)]
  exact BitVec.extractLsb'_eq_self

/-- The fields of a word written as opcode and argument. -/
theorem fields_of_op_arg (op : Byte) (arg : BitVec 32) : opField (op ++ arg) = op ∧ argField (op ++ arg) = arg :=
  (append_inj _ _ _ _).1 (word_eq_op_arg (op ++ arg))

/-- The fields of a word written in form `B`. -/
theorem fields_of_op_reserved_d8 (op : Byte) (r : BitVec 24) (d8 : Byte) :
    opField ((op ++ r) ++ d8) = op ∧ reservedField ((op ++ r) ++ d8) = r ∧ d8Field ((op ++ r) ++ d8) = d8 := by
  have h := (append_inj _ _ _ _).1 (word_eq_op_reserved_d8 ((op ++ r) ++ d8))
  have h' := (append_inj _ _ _ _).1 h.1
  exact ⟨h'.1, h'.2, h.2⟩

/-- The fields of a word written in form `S`. -/
theorem fields_of_op_start (op mtype id : Byte) (len : Half) :
    let w : CmdWord := ((op ++ mtype) ++ id) ++ len
    opField w = op ∧ typeField w = mtype ∧ idField w = id ∧ lenField w = len := by
  intro w
  have h := (append_inj _ _ _ _).1 (word_eq_op_start w)
  have h' := (append_inj _ _ _ _).1 h.1
  have h'' := (append_inj _ _ _ _).1 h'.1
  exact ⟨h''.1, h''.2, h'.2, h.2⟩

/-- The argument bits that a mnemonic's form reserves are zero (R81). -/
def Mnemonic.ReservedZero (m : Mnemonic) (w : CmdWord) : Prop :=
  match m.form with
  | .none => argField w = 0#32
  | .byte => reservedField w = 0#24
  | .start => True

/-- The test of R83 against the columns of R82 says that the reserved bits are zero. -/
theorem mask_match_iff (m : Mnemonic) (w : CmdWord) (h : opField w = m.op) :
    w &&& m.maskWord = m.matchWord ↔ m.ReservedZero w := by
  have none : ∀ op : Byte, opField w = op →
      (w &&& (BitVec.allOnes 8 ++ BitVec.allOnes 32) = op ++ 0#32 ↔ argField w = 0#32) := by
    rintro op rfl
    rw [← word_eq_op_arg w, BitVec.and_append, append_inj, BitVec.and_allOnes, BitVec.and_allOnes]
    simp only [fields_of_op_arg, true_and]
  have byte : ∀ op : Byte, opField w = op →
      (w &&& ((BitVec.allOnes 8 ++ BitVec.allOnes 24) ++ 0#8) = (op ++ 0#24) ++ 0#8 ↔ reservedField w = 0#24) := by
    rintro op rfl
    rw [← word_eq_op_reserved_d8 w, BitVec.and_append, BitVec.and_append, append_inj, append_inj,
      BitVec.and_allOnes, BitVec.and_allOnes, BitVec.and_zero]
    simp only [fields_of_op_reserved_d8, true_and, and_true]
  have start : ∀ op : Byte, opField w = op → w &&& (BitVec.allOnes 8 ++ 0#32) = op ++ 0#32 := by
    rintro op rfl
    rw [← word_eq_op_arg w, BitVec.and_append, append_inj, BitVec.and_allOnes, BitVec.and_zero]
    simp only [fields_of_op_arg, and_self]
  cases m with
  | nop => exact none _ h
  | crcInit => exact none _ h
  | crcFeed => exact byte _ h
  | crcRead => exact none _ h
  | txStart => exact iff_of_true (start _ h) trivial
  | txData => exact byte _ h
  | txAbort => exact none _ h
  | rxByte => exact byte _ h
  | rxFlush => exact none _ h
  | regRead => exact byte _ h

/-- The assigned opcodes are those of the mnemonics. -/
theorem Mnemonic.ofOp_eq_some_iff (op : Byte) (m : Mnemonic) : Mnemonic.ofOp op = some m ↔ m.op = op := by
  constructor
  · intro h
    unfold Mnemonic.ofOp at h
    split_ifs at h with h0 h1 h2 h3 h4 h5 h6 h7 h8 h9 <;> cases h <;> simp_all [Mnemonic.op]
  · rintro rfl
    cases m <;> rfl

/-- An opcode is unassigned when no mnemonic has it. -/
theorem Mnemonic.ofOp_eq_none_iff (op : Byte) : Mnemonic.ofOp op = none ↔ ∀ m : Mnemonic, m.op ≠ op := by
  constructor
  · intro h m hm
    rw [(Mnemonic.ofOp_eq_some_iff op m).2 hm] at h
    cases h
  · intro h
    cases hm : Mnemonic.ofOp op with
    | none => rfl
    | some m => exact absurd ((Mnemonic.ofOp_eq_some_iff op m).1 hm) (h m)

/-- When a word is a command, and which. -/
theorem decode_eq_ok_iff (w : CmdWord) (i : Instr) :
    decode w = .ok i ↔ ∃ m : Mnemonic, m.op = opField w ∧ m.ReservedZero w ∧ m.withOperandsOf w = i := by
  unfold decode
  cases hm : Mnemonic.ofOp (opField w) with
  | none => simp [(Mnemonic.ofOp_eq_none_iff _).1 hm]
  | some m =>
    have hop := (Mnemonic.ofOp_eq_some_iff _ _).1 hm
    have only : ∀ m' : Mnemonic, m'.op = opField w → m' = m := fun m' h' => by
      simpa [(Mnemonic.ofOp_eq_some_iff _ m').2 h'] using hm
    by_cases hz : m.ReservedZero w
    · simp only [(mask_match_iff m w hop.symm).2 hz, if_true, Except.ok.injEq]
      exact ⟨fun h => ⟨m, hop, hz, h⟩, fun ⟨m', h', _, hi⟩ => only m' h' ▸ hi⟩
    · simp only [mt (mask_match_iff m w hop.symm).1 hz, if_false, reduceCtorEq, false_iff]
      rintro ⟨m', h', hz', -⟩
      exact hz (only m' h' ▸ hz')

/-- When a word is no command, and why (R83). -/
theorem decode_eq_error_iff (w : CmdWord) (e : DecodeError) :
    decode w = .error e ↔
      ((∀ m : Mnemonic, m.op ≠ opField w) ∧ e = .illegalOpcode) ∨
      ((∃ m : Mnemonic, m.op = opField w ∧ ¬m.ReservedZero w) ∧ e = .reservedBits) := by
  unfold decode
  cases hm : Mnemonic.ofOp (opField w) with
  | none =>
    have hn := (Mnemonic.ofOp_eq_none_iff _).1 hm
    simp [hn, eq_comm]
  | some m =>
    have hop := (Mnemonic.ofOp_eq_some_iff _ _).1 hm
    have only : ∀ m' : Mnemonic, m'.op = opField w → m' = m := fun m' h' => by
      simpa [(Mnemonic.ofOp_eq_some_iff _ m').2 h'] using hm
    have assigned : ¬∀ m' : Mnemonic, m'.op ≠ opField w := fun h => h m hop
    by_cases hz : m.ReservedZero w
    · simp only [(mask_match_iff m w hop.symm).2 hz, if_true, reduceCtorEq, false_iff, assigned, false_and, false_or]
      rintro ⟨⟨m', h', hz'⟩, -⟩
      exact hz' (only m' h' ▸ hz)
    · simp only [mt (mask_match_iff m w hop.symm).1 hz, if_false, Except.error.injEq, assigned, false_and, false_or]
      exact ⟨fun h => ⟨⟨m, hop, hz⟩, h.symm⟩, fun h => h.2.symm⟩

end Sys2Proof
end

