-- ==== Sys2Proof/Laws/Memory.lean ====
section
/-! SUPPORT. The body buffers: every operation keeps the canonical form, a read after a write, and the bytes
at the front of a buffer. -/

namespace Sys2Proof.Machine

open Sys2Proof

@[simp] theorem Memory.read_nil (a : Nat) : Memory.read [] a = Memory.unlisted := rfl

theorem Memory.read_cons (k : Nat) (v : Byte) (rest : Memory) (a : Nat) :
    Memory.read ((k, v) :: rest) a = if k = a then v else Memory.read rest a := rfl

theorem Memory.wf_cons (k : Nat) (v : Byte) (rest : Memory) :
    Memory.wf ((k, v) :: rest) = true ↔
      v ≠ Memory.unlisted ∧ (∀ c ∈ rest, k < c.1) ∧ Memory.wf rest = true := by
  simp [Memory.wf, and_assoc]

/-- An index below every listed one is unlisted. -/
theorem Memory.read_of_lt (m : Memory) (a : Nat) (h : ∀ c ∈ m, a < c.1) :
    m.read a = Memory.unlisted := by
  induction m with
  | nil => rfl
  | cons c rest ih =>
    obtain ⟨k, v⟩ := c
    have hk : a < k := h (k, v) (by simp)
    rw [Memory.read_cons, if_neg (by omega)]
    exact ih fun c hc => h c (by simp [hc])

/-- A write leaves every other index alone. -/
theorem Memory.read_write_other (m : Memory) (a b : Nat) (v : Byte) (hab : b ≠ a) :
    (m.write a v).read b = m.read b := by
  induction m with
  | nil => by_cases hv : v = Memory.unlisted <;> simp [Memory.write, hv, Memory.read, Ne.symm hab]
  | cons c rest ih =>
    obtain ⟨k, x⟩ := c
    simp only [Memory.write]
    split_ifs with h1 h2 h3 h4
    · rfl
    · simp [Memory.read, Ne.symm hab]
    · simp [Memory.read, ← h3, Ne.symm hab]
    · simp [Memory.read, ← h3, Ne.symm hab]
    · simp [Memory.read, ih]

/-- A read after a write to the same index gives the byte written. -/
theorem Memory.read_write_same (m : Memory) (a : Nat) (v : Byte) (hm : m.wf = true) :
    (m.write a v).read a = v := by
  induction m with
  | nil => by_cases hv : v = Memory.unlisted <;> simp [Memory.write, hv, Memory.read]
  | cons c rest ih =>
    obtain ⟨k, x⟩ := c
    obtain ⟨-, hlt, hrest⟩ := (Memory.wf_cons k x rest).1 hm
    simp only [Memory.write]
    split_ifs with h1 h2 h3 h4
    · rw [h2, Memory.read_cons, if_neg (by omega)]
      exact Memory.read_of_lt rest a fun c hc => by have := hlt c hc; omega
    · simp [Memory.read]
    · rw [h4]
      exact Memory.read_of_lt rest a fun c hc => by have := hlt c hc; omega
    · simp [Memory.read]
    · rw [Memory.read_cons, if_neg (by omega)]
      exact ih hrest

/-- Every entry after a write was listed before or is the one written. -/
theorem Memory.mem_write (m : Memory) (a : Nat) (v : Byte) (c : Host.Cell) (h : c ∈ m.write a v) :
    c ∈ m ∨ c = (a, v) := by
  induction m with
  | nil => by_cases hv : v = Memory.unlisted <;> simp_all [Memory.write]
  | cons d rest ih =>
    obtain ⟨k, x⟩ := d
    simp only [Memory.write] at h
    split_ifs at h <;> simp only [List.mem_cons] at h ⊢ <;> tauto

/-- A write keeps the canonical form. -/
theorem Memory.write_wf (m : Memory) (a : Nat) (v : Byte) (hm : m.wf = true) : (m.write a v).wf = true := by
  induction m with
  | nil => by_cases hv : v = Memory.unlisted <;> simp [Memory.write, hv, Memory.wf]
  | cons c rest ih =>
    obtain ⟨k, x⟩ := c
    obtain ⟨hx, hlt, hrest⟩ := (Memory.wf_cons k x rest).1 hm
    simp only [Memory.write]
    split_ifs with h1 h2 h3 h4
    · exact hm
    · refine (Memory.wf_cons a v _).2 ⟨h2, fun c hc => ?_, hm⟩
      rcases List.mem_cons.1 hc with rfl | hc
      · exact h1
      · exact lt_trans h1 (hlt c hc)
    · exact hrest
    · exact (Memory.wf_cons a v rest).2 ⟨h4, h3 ▸ hlt, hrest⟩
    · refine (Memory.wf_cons k x _).2 ⟨hx, fun c hc => ?_, ih hrest⟩
      rcases Memory.mem_write rest a v c hc with hc | rfl
      · exact hlt c hc
      · show k < a
        omega

/-- A write inside the buffer lists only the buffer's indices. -/
theorem Memory.write_inRange (m : Memory) (a : Nat) (v : Byte) (ha : a < bufferSize) (hm : m.inRange = true) :
    (m.write a v).inRange = true := by
  simp only [Memory.inRange, List.all_eq_true, decide_eq_true_eq] at hm ⊢
  intro c hc
  rcases Memory.mem_write m a v c hc with hc | rfl
  · exact hm c hc
  · exact ha

@[simp] theorem Memory.wf_nil : Memory.wf [] = true := rfl

@[simp] theorem Memory.inRange_nil : Memory.inRange [] = true := rfl

@[simp] theorem Memory.length_firstBytes (m : Memory) (n : Nat) : (m.firstBytes n).length = n := by
  simp [Memory.firstBytes]

@[simp] theorem Memory.firstBytes_zero (m : Memory) : m.firstBytes 0 = [] := rfl

theorem Memory.firstBytes_succ (m : Memory) (n : Nat) : m.firstBytes (n + 1) = m.firstBytes n ++ [m.read n] := by
  simp [Memory.firstBytes, List.range_succ]

/-- The front of a buffer depends only on the bytes it holds there. -/
theorem Memory.firstBytes_congr (m m' : Memory) (n : Nat) (h : ∀ a, a < n → m.read a = m'.read a) :
    m.firstBytes n = m'.firstBytes n := by
  simp only [Memory.firstBytes, List.map_inj_left, List.mem_range]
  exact h

/-- A byte written just past the front extends it. -/
theorem Memory.firstBytes_write (m : Memory) (n : Nat) (v : Byte) (hm : m.wf = true) :
    (m.write n v).firstBytes (n + 1) = m.firstBytes n ++ [v] := by
  rw [Memory.firstBytes_succ, Memory.read_write_same m n v hm,
    Memory.firstBytes_congr (m.write n v) m n fun a ha => Memory.read_write_other m n a v (by omega)]

end Sys2Proof.Machine
end

