-- ==== Sys2Proof/Laws/State.lean ====
section
/-! SUPPORT. One lemma per field of the state and named update, so that no proof unfolds an update. -/

namespace Sys2Proof.Machine

open Sys2Proof

variable (s : State)

@[simp] theorem State.setCrcAcc_crcAcc (c : Half) : (s.setCrcAcc c).crcAcc = c := rfl
@[simp] theorem State.setCrcAcc_tx (c : Half) : (s.setCrcAcc c).tx = s.tx := rfl
@[simp] theorem State.setCrcAcc_rx (c : Half) : (s.setCrcAcc c).rx = s.rx := rfl
@[simp] theorem State.setCrcAcc_cfg (c : Half) : (s.setCrcAcc c).cfg = s.cfg := rfl
@[simp] theorem State.setCrcAcc_events (c : Half) : (s.setCrcAcc c).events = s.events := rfl
@[simp] theorem State.setCrcAcc_inputs (c : Half) : (s.setCrcAcc c).inputs = s.inputs := rfl

@[simp] theorem State.setTx_crcAcc (x : Framer) : (s.setTx x).crcAcc = s.crcAcc := rfl
@[simp] theorem State.setTx_tx (x : Framer) : (s.setTx x).tx = x := rfl
@[simp] theorem State.setTx_rx (x : Framer) : (s.setTx x).rx = s.rx := rfl
@[simp] theorem State.setTx_cfg (x : Framer) : (s.setTx x).cfg = s.cfg := rfl
@[simp] theorem State.setTx_events (x : Framer) : (s.setTx x).events = s.events := rfl
@[simp] theorem State.setTx_inputs (x : Framer) : (s.setTx x).inputs = s.inputs := rfl

@[simp] theorem State.setRx_crcAcc (x : Deframer) : (s.setRx x).crcAcc = s.crcAcc := rfl
@[simp] theorem State.setRx_tx (x : Deframer) : (s.setRx x).tx = s.tx := rfl
@[simp] theorem State.setRx_rx (x : Deframer) : (s.setRx x).rx = x := rfl
@[simp] theorem State.setRx_cfg (x : Deframer) : (s.setRx x).cfg = s.cfg := rfl
@[simp] theorem State.setRx_events (x : Deframer) : (s.setRx x).events = s.events := rfl
@[simp] theorem State.setRx_inputs (x : Deframer) : (s.setRx x).inputs = s.inputs := rfl

@[simp] theorem State.emit_crcAcc (e : Event) : (s.emit e).crcAcc = s.crcAcc := rfl
@[simp] theorem State.emit_tx (e : Event) : (s.emit e).tx = s.tx := rfl
@[simp] theorem State.emit_rx (e : Event) : (s.emit e).rx = s.rx := rfl
@[simp] theorem State.emit_cfg (e : Event) : (s.emit e).cfg = s.cfg := rfl
@[simp] theorem State.emit_events (e : Event) : (s.emit e).events = s.events ++ [e] := rfl
@[simp] theorem State.emit_inputs (e : Event) : (s.emit e).inputs = s.inputs := rfl

@[simp] theorem State.setInputs_crcAcc (ps : List PortInput) : (s.setInputs ps).crcAcc = s.crcAcc := rfl
@[simp] theorem State.setInputs_tx (ps : List PortInput) : (s.setInputs ps).tx = s.tx := rfl
@[simp] theorem State.setInputs_rx (ps : List PortInput) : (s.setInputs ps).rx = s.rx := rfl
@[simp] theorem State.setInputs_cfg (ps : List PortInput) : (s.setInputs ps).cfg = s.cfg := rfl
@[simp] theorem State.setInputs_events (ps : List PortInput) : (s.setInputs ps).events = s.events := rfl
@[simp] theorem State.setInputs_inputs (ps : List PortInput) : (s.setInputs ps).inputs = ps := rfl

@[simp] theorem presentWord_crcAcc (w : CmdWord) : (presentWord s w).crcAcc = s.crcAcc := rfl
@[simp] theorem presentWord_tx (w : CmdWord) : (presentWord s w).tx = s.tx := rfl
@[simp] theorem presentWord_rx (w : CmdWord) : (presentWord s w).rx = s.rx := rfl
@[simp] theorem presentWord_cfg (w : CmdWord) : (presentWord s w).cfg = s.cfg := rfl
@[simp] theorem presentWord_events (w : CmdWord) : (presentWord s w).events = s.events := rfl
@[simp] theorem presentWord_inputs (w : CmdWord) :
    (presentWord s w).inputs = ⟨false, some w⟩ :: s.inputs := rfl

@[simp] theorem applyReset_crcAcc : (applyReset s).crcAcc = 0xFFFF#16 := rfl
@[simp] theorem applyReset_tx : (applyReset s).tx = Framer.reset := rfl
@[simp] theorem applyReset_rx : (applyReset s).rx = Deframer.reset := rfl
@[simp] theorem applyReset_cfg : (applyReset s).cfg = s.cfg := rfl
@[simp] theorem applyReset_events : (applyReset s).events = s.events := rfl
@[simp] theorem applyReset_inputs : (applyReset s).inputs = s.inputs := rfl

end Sys2Proof.Machine
end

