-- ==== Sys2Proof/Laws/Ops.lean ====
section
/-! SUPPORT. What each shared operation and each command can do, said once. -/

namespace Sys2Proof.Machine

open Sys2Proof

/-! ### The CRC function and two-byte fields -/

@[simp] theorem crcFold_nil (c : Half) : crcFold c [] = c := rfl

@[simp] theorem crcFold_cons (c : Half) (d : Byte) (s : List Byte) :
    crcFold c (d :: s) = crcFold (crcByte c d) s := rfl

theorem crcFold_concat (c : Half) (s : List Byte) (d : Byte) :
    crcFold c (s ++ [d]) = crcByte (crcFold c s) d := by
  simp [crcFold]

/-- One more byte enters a CRC by one `crc_byte`. -/
theorem crc16_concat (s : List Byte) (d : Byte) : crc16 (s ++ [d]) = crcByte (crc16 s) d :=
  crcFold_concat _ _ _

@[simp] theorem hiByte_be16 (h l : Byte) : hiByte (be16 h l) = h := by
  simp only [hiByte, be16]
  exact BitVec.extractLsb'_append_eq_left

@[simp] theorem loByte_be16 (h l : Byte) : loByte (be16 h l) = l := by
  simp only [loByte, be16]
  exact BitVec.extractLsb'_append_eq_right

@[simp] theorem be16_hiByte_loByte (v : Half) : be16 (hiByte v) (loByte v) = v := by
  simp only [hiByte, loByte, be16]
  rw [BitVec.extractLsb'_append_extractLsb'_eq_extractLsb' (by decide)]
  exact BitVec.extractLsb'_eq_self

/-! ### Raising an error -/

/-- A `CmdError` is one event and nothing else. -/
theorem raiseCmdError_next (op : Byte) (cause : ErrorCause) (s t : State)
    (h : raiseCmdError op cause s = .next t) : t = s.emit (.cmdError op cause.code) := by
  simpa [raiseCmdError] using h.symm

/-! ### The commands of the checksum engine and of control -/

@[simp] theorem exec_nop (s : State) : exec .nop s = .next s := rfl

@[simp] theorem exec_crcInit (s : State) : exec .crcInit s = .next (s.setCrcAcc crcInitial) := rfl

@[simp] theorem exec_crcFeed (d8 : Byte) (s : State) :
    exec (.crcFeed d8) s = .next (s.setCrcAcc (crcByte s.crcAcc d8)) := rfl

@[simp] theorem exec_crcRead (s : State) : exec .crcRead s = .next (s.emit (.crcValue s.crcAcc)) := rfl

/-- `REG_READ` emits one event and changes nothing else. -/
theorem exec_regRead_cases (sel : Byte) (s : State) :
    (∃ v, selectedRegister s sel = some v ∧ exec (.regRead sel) s = .next (s.emit (.regValue sel v))) ∨
    (selectedRegister s sel = none ∧ exec (.regRead sel) s = .next (s.emit (.cmdError 0x30#8 0x06#8))) := by
  show (∃ v, _ ∧ execRegRead sel s = _) ∨ (_ ∧ execRegRead sel s = _)
  unfold execRegRead
  cases h : selectedRegister s sel with
  | none => exact .inr ⟨rfl, rfl⟩
  | some v => exact .inl ⟨v, rfl, rfl⟩

/-! ### The framer's commands -/

/-- Everything `TX_START` can do. -/
theorem exec_txStart_cases (mtype id : Byte) (len : Half) (s : State) :
    (s.tx.busy = true ∧ exec (.txStart mtype id len) s = .next (s.emit (.cmdError 0x10#8 0x03#8))) ∨
    (s.tx.busy = false ∧ id = 0#8 ∧
      exec (.txStart mtype id len) s = .next (s.emit (.cmdError 0x10#8 0x05#8))) ∨
    (s.tx.busy = false ∧ id ≠ 0#8 ∧ len = 0#16 ∧
      exec (.txStart mtype id len) s =
        .next ((s.setTx ⟨false, mtype, id, len, 0#16, crc16 (txPrefix s.cfg mtype id len), s.tx.buf⟩).emit
          (.txFrame (assembleFrame s.cfg mtype id len [] (crc16 (txPrefix s.cfg mtype id len)))))) ∨
    (s.tx.busy = false ∧ id ≠ 0#8 ∧ len ≠ 0#16 ∧
      exec (.txStart mtype id len) s =
        .next (s.setTx ⟨true, mtype, id, len, len, crc16 (txPrefix s.cfg mtype id len), s.tx.buf⟩)) := by
  simp only [exec, execTxStart]
  cases hb : s.tx.busy with
  | true => exact .inl ⟨rfl, rfl⟩
  | false =>
    by_cases hi : id = 0#8
    · exact .inr (.inl ⟨rfl, hi, by simp [hi]; rfl⟩)
    · by_cases hl : len = 0#16
      · exact .inr (.inr (.inl ⟨rfl, hi, hl, by simp [hi, hl]⟩))
      · exact .inr (.inr (.inr ⟨rfl, hi, hl, by simp [hi, hl]⟩))

/-- The framer after one body byte (R122), before `TX_BUSY` is settled. -/
def txAfterByte (d8 : Byte) (tx : Framer) : Framer :=
  { tx with buf := tx.buf.write (txIndex tx) d8, crc := crcByte tx.crc d8, rem := tx.rem - 1#16 }

/-- Everything `TX_DATA` can do. -/
theorem exec_txData_cases (d8 : Byte) (s : State) :
    (s.tx.busy = false ∧ exec (.txData d8) s = .next (s.emit (.cmdError 0x11#8 0x04#8))) ∨
    (s.tx.busy = true ∧ ¬(1 ≤ s.tx.rem.toNat ∧ s.tx.rem.toNat ≤ s.tx.len.toNat) ∧
      exec (.txData d8) s = .fault .txCountOutOfRange) ∨
    (s.tx.busy = true ∧ 1 ≤ s.tx.rem.toNat ∧ s.tx.rem.toNat ≤ s.tx.len.toNat ∧ s.tx.rem = 1#16 ∧
      exec (.txData d8) s = .next ((s.setTx { txAfterByte d8 s.tx with busy := false }).emit
        (.txFrame (assembleFrame s.cfg s.tx.mtype s.tx.id s.tx.len
          (s.tx.buf.firstBytes (txIndex s.tx) ++ [d8]) (crcByte s.tx.crc d8))))) ∨
    (s.tx.busy = true ∧ 1 ≤ s.tx.rem.toNat ∧ s.tx.rem.toNat ≤ s.tx.len.toNat ∧ s.tx.rem ≠ 1#16 ∧
      exec (.txData d8) s = .next (s.setTx (txAfterByte d8 s.tx))) := by
  simp only [exec, execTxData]
  cases hb : s.tx.busy with
  | false => exact .inl ⟨rfl, rfl⟩
  | true =>
    by_cases hr : 1 ≤ s.tx.rem.toNat ∧ s.tx.rem.toNat ≤ s.tx.len.toNat
    · by_cases h1 : s.tx.rem = 1#16
      · exact .inr (.inr (.inl ⟨rfl, hr.1, hr.2, h1, by rw [if_pos rfl, if_pos hr, if_pos h1]; rfl⟩))
      · refine .inr (.inr (.inr ⟨rfl, hr.1, hr.2, h1, ?_⟩))
        rw [if_pos rfl, if_pos hr, if_neg h1]
        simp only [txAfterByte, hb]
    · exact .inr (.inl ⟨rfl, hr, by rw [if_pos rfl, if_neg hr]⟩)

@[simp] theorem exec_txAbort (s : State) :
    exec .txAbort s = .next (s.setTx { s.tx with busy := false, rem := 0#16 }) := rfl

/-! ### The deframer's commands -/

/-- Everything `RX_BYTE` can do: a case rule of R141 to R146, the completion of R147 and R148, or, outside
R140's table, the fault. -/
theorem exec_rxByte_cases (d8 : Byte) (s : State) :
    (s.rx.state = .awaitingHeader ∧ s.rx.cnt.toNat ≤ 4 ∧
      exec (.rxByte d8) s = .next (s.setRx (rxHeaderByte d8 s.rx))) ∨
    (s.rx.state = .awaitingHeader ∧ s.rx.cnt = 5#16 ∧
      exec (.rxByte d8) s = .next (s.setRx (rxTypeByte s.cfg d8 s.rx))) ∨
    (s.rx.state = .awaitingLength ∧ s.rx.cnt = 0#16 ∧
      exec (.rxByte d8) s = .next (s.setRx (rxLengthHigh d8 s.rx))) ∨
    (s.rx.state = .awaitingLength ∧ s.rx.cnt = 1#16 ∧
      exec (.rxByte d8) s = .next (s.setRx (rxLengthLow d8 s.rx))) ∨
    (s.rx.state = .awaitingBody ∧ s.rx.cnt.toNat < s.rx.len.toNat ∧
      exec (.rxByte d8) s = .next (s.setRx (rxBodyByte d8 s.rx))) ∨
    (s.rx.state = .awaitingCrc ∧ s.rx.cnt = 0#16 ∧
      exec (.rxByte d8) s = .next (s.setRx (rxCrcHigh d8 s.rx))) ∨
    (s.rx.state = .awaitingCrc ∧ s.rx.cnt = 1#16 ∧ exec (.rxByte d8) s = .next (rxCrcLow d8 s)) ∨
    ((s.rx.state = .awaitingHeader ∧ 5 < s.rx.cnt.toNat ∨ s.rx.state = .awaitingLength ∧ 1 < s.rx.cnt.toNat ∨
        s.rx.state = .awaitingBody ∧ s.rx.len.toNat ≤ s.rx.cnt.toNat ∨
        s.rx.state = .awaitingCrc ∧ 1 < s.rx.cnt.toNat) ∧
      exec (.rxByte d8) s = .fault .rxCountOutOfRange) := by
  have small : ∀ c : Half, c ≠ 0#16 → c ≠ 1#16 → 1 < c.toNat := by
    intro c h0 h1
    have := BitVec.toNat_ne.1 h0
    have := BitVec.toNat_ne.1 h1
    simp at *
    omega
  simp only [exec, execRxByte]
  cases hs : s.rx.state with
  | awaitingHeader =>
    by_cases h4 : s.rx.cnt.toNat ≤ 4
    · simp [h4]
    · by_cases h5 : s.rx.cnt = 5#16
      · simp [h5]
      · have := BitVec.toNat_ne.1 h5
        have : 5 < s.rx.cnt.toNat := by simp at this; omega
        simp [h4, h5, this]
  | awaitingLength =>
    by_cases h0 : s.rx.cnt = 0#16
    · simp [h0]
    · by_cases h1 : s.rx.cnt = 1#16
      · simp [h1]
      · simp [h0, h1, small _ h0 h1]
  | awaitingBody =>
    by_cases h : s.rx.cnt.toNat < s.rx.len.toNat
    · simp [h]
    · simp [h, Nat.le_of_not_lt h]
  | awaitingCrc =>
    by_cases h0 : s.rx.cnt = 0#16
    · simp [h0]
    · by_cases h1 : s.rx.cnt = 1#16
      · simp [h1]
      · simp [h0, h1, small _ h0 h1]

/-- The case of R141 runs it. -/
theorem exec_rxByte_header (d8 : Byte) (s : State) (hs : s.rx.state = .awaitingHeader) (hc : s.rx.cnt.toNat ≤ 4) :
    exec (.rxByte d8) s = .next (s.setRx (rxHeaderByte d8 s.rx)) := by
  simp [exec, execRxByte, hs, hc]

/-- The case of R142 runs it. -/
theorem exec_rxByte_type (d8 : Byte) (s : State) (hs : s.rx.state = .awaitingHeader) (hc : s.rx.cnt = 5#16) :
    exec (.rxByte d8) s = .next (s.setRx (rxTypeByte s.cfg d8 s.rx)) := by
  simp [exec, execRxByte, hs, hc]

/-- The case of R143 runs it. -/
theorem exec_rxByte_lengthHigh (d8 : Byte) (s : State) (hs : s.rx.state = .awaitingLength) (hc : s.rx.cnt = 0#16) :
    exec (.rxByte d8) s = .next (s.setRx (rxLengthHigh d8 s.rx)) := by
  simp [exec, execRxByte, hs, hc]

/-- The case of R144 runs it. -/
theorem exec_rxByte_lengthLow (d8 : Byte) (s : State) (hs : s.rx.state = .awaitingLength) (hc : s.rx.cnt = 1#16) :
    exec (.rxByte d8) s = .next (s.setRx (rxLengthLow d8 s.rx)) := by
  simp [exec, execRxByte, hs, hc]

/-- The case of R145 runs it. -/
theorem exec_rxByte_body (d8 : Byte) (s : State) (hs : s.rx.state = .awaitingBody)
    (hc : s.rx.cnt.toNat < s.rx.len.toNat) :
    exec (.rxByte d8) s = .next (s.setRx (rxBodyByte d8 s.rx)) := by
  simp [exec, execRxByte, hs, hc]

/-- The case of R146 runs it. -/
theorem exec_rxByte_crcHigh (d8 : Byte) (s : State) (hs : s.rx.state = .awaitingCrc) (hc : s.rx.cnt = 0#16) :
    exec (.rxByte d8) s = .next (s.setRx (rxCrcHigh d8 s.rx)) := by
  simp [exec, execRxByte, hs, hc]

/-- The case of R147 runs it, and completes the frame by R148. -/
theorem exec_rxByte_crcLow (d8 : Byte) (s : State) (hs : s.rx.state = .awaitingCrc) (hc : s.rx.cnt = 1#16) :
    exec (.rxByte d8) s = .next (rxCrcLow d8 s) := by
  simp [exec, execRxByte, hs, hc]

@[simp] theorem exec_rxFlush (s : State) : exec .rxFlush s = .next (s.setRx (rxRestart s.rx)) := rfl

end Sys2Proof.Machine
end

