-- ==== Sys2Proof/Laws/PerInstr.lean ====
section
/-! SUPPORT. Facts about every command as syntax, one lemma per constructor. -/

namespace Sys2Proof.Laws

open Sys2Proof

/-- The word of a command has the opcode of its mnemonic in bits 39 to 32 (30_encoding.md R80), and the
command is well-formed. -/
def OpcodeInPlace.Statement (i : Instr) : Prop := opField (encode i) = i.mnemonic.op ∧ i.wellFormed = true

/-- The opcode is the high part of the word, whatever the argument. -/
theorem opField_append (op : Byte) (arg : BitVec 32) : opField (op ++ arg) = op := by
  unfold opField
  exact BitVec.extractLsb'_append_eq_left

theorem OpcodeInPlace.nop : OpcodeInPlace.Statement .nop := ⟨opField_append _ _, rfl⟩

theorem OpcodeInPlace.crcInit : OpcodeInPlace.Statement .crcInit := ⟨opField_append _ _, rfl⟩

theorem OpcodeInPlace.crcFeed (d8 : Byte) : OpcodeInPlace.Statement (.crcFeed d8) :=
  ⟨opField_append _ _, decide_eq_true d8.isLt⟩

theorem OpcodeInPlace.crcRead : OpcodeInPlace.Statement .crcRead := ⟨opField_append _ _, rfl⟩

theorem OpcodeInPlace.txStart (mtype id : Byte) (len : Half) : OpcodeInPlace.Statement (.txStart mtype id len) :=
  ⟨opField_append _ _, by
    simp [Instr.wellFormed, Instr.source, SourceInstr.wellFormed, Mnemonic.form, mtype.isLt, id.isLt, len.isLt]⟩

theorem OpcodeInPlace.txData (d8 : Byte) : OpcodeInPlace.Statement (.txData d8) :=
  ⟨opField_append _ _, decide_eq_true d8.isLt⟩

theorem OpcodeInPlace.txAbort : OpcodeInPlace.Statement .txAbort := ⟨opField_append _ _, rfl⟩

theorem OpcodeInPlace.rxByte (d8 : Byte) : OpcodeInPlace.Statement (.rxByte d8) :=
  ⟨opField_append _ _, decide_eq_true d8.isLt⟩

theorem OpcodeInPlace.rxFlush : OpcodeInPlace.Statement .rxFlush := ⟨opField_append _ _, rfl⟩

theorem OpcodeInPlace.regRead (sel : Byte) : OpcodeInPlace.Statement (.regRead sel) :=
  ⟨opField_append _ _, decide_eq_true sel.isLt⟩

end Sys2Proof.Laws
end

