-- ==== Sys2Proof/Laws/Step.lean ====
section
/-! SUPPORT. Everything a step can do. -/

namespace Sys2Proof.Machine

open Sys2Proof

/-- A step does nothing, resets, raises a decoding error, or executes the command it takes. -/
theorem step_cases (s : State) :
    (s.inputs = [] ∧ step s = .next s) ∨
    (∃ rest, s.inputs = ⟨false, none⟩ :: rest ∧ step s = .next (s.setInputs rest)) ∨
    (∃ c rest, s.inputs = ⟨true, c⟩ :: rest ∧ step s = .next (applyReset (s.setInputs rest))) ∨
    (∃ w rest e, s.inputs = ⟨false, some w⟩ :: rest ∧ decode w = .error e ∧
      step s = .next ((s.setInputs rest).emit (.cmdError (opField w) (ErrorCause.ofDecode e).code))) ∨
    (∃ w rest i, s.inputs = ⟨false, some w⟩ :: rest ∧ decode w = .ok i ∧ step s = exec i (s.setInputs rest)) := by
  unfold step takeInput
  cases hi : s.inputs with
  | nil => exact .inl ⟨rfl, rfl⟩
  | cons p rest =>
    obtain ⟨r, c⟩ := p
    cases r with
    | true => exact .inr (.inr (.inl ⟨c, rest, rfl, rfl⟩))
    | false =>
      cases c with
      | none => exact .inr (.inl ⟨rest, rfl, rfl⟩)
      | some w =>
        cases hd : decode w with
        | error e =>
          exact .inr (.inr (.inr (.inl ⟨w, rest, e, rfl, hd, by simp [process, execWord, hd]; rfl⟩)))
        | ok i =>
          exact .inr (.inr (.inr (.inr ⟨w, rest, i, rfl, hd, by simp [process, execWord, hd]⟩)))

end Sys2Proof.Machine
end

