-- ==== Sys2Proof/Tests/Slice0.lean ====
section
/-! SUPPORT. The model's own tests. Every expected value is taken from the spec: the file and section stand
in the comment above it. `witness_<Name>` shows concrete states and operands that meet the hypotheses of
`Obligations.<Name>`, one for each clause that has its own. -/

namespace Sys2Proof.Tests

open Sys2Proof Sys2Proof.Machine

set_option Elab.async false

/-! ### Ill-formed written commands (30_encoding.md R81, R85) -/

theorem test_form_n_takes_no_operand : (SourceInstr.mk .nop [0]).wellFormed = false := by decide
theorem test_form_b_needs_an_operand : (SourceInstr.mk .crcFeed []).wellFormed = false := by decide
theorem test_form_b_takes_one_operand : (SourceInstr.mk .rxByte [1, 2]).wellFormed = false := by decide
theorem test_d8_fits_8_bits : (SourceInstr.mk .txData [256]).wellFormed = false := by decide
theorem test_sel_fits_8_bits : (SourceInstr.mk .regRead [256]).wellFormed = false := by decide
theorem test_form_s_needs_three_operands : (SourceInstr.mk .txStart [1, 2]).wellFormed = false := by decide
theorem test_form_s_takes_three_operands : (SourceInstr.mk .txStart [1, 2, 3, 4]).wellFormed = false := by decide
theorem test_type_fits_8_bits : (SourceInstr.mk .txStart [256, 1, 1]).wellFormed = false := by decide
theorem test_id_fits_8_bits : (SourceInstr.mk .txStart [1, 256, 1]).wellFormed = false := by decide
theorem test_len_fits_16_bits : (SourceInstr.mk .txStart [1, 1, 65536]).wellFormed = false := by decide
theorem test_largest_operands_fit : (SourceInstr.mk .txStart [255, 255, 65535]).wellFormed = true := by decide

/-! ### Words written out from R80 to R82, and from the programs of 95_test_vectors.md -/

theorem test_decode_nop : decodeTableWord 40 0x0000000000 = some .nop := by decide
theorem test_decode_crc_init : decodeTableWord 40 0x0100000000 = some .crcInit := by decide
theorem test_decode_crc_feed : decodeTableWord 40 0x0200000031 = some (.crcFeed 0x31#8) := by decide
theorem test_decode_crc_read : decodeTableWord 40 0x0300000000 = some .crcRead := by decide
theorem test_decode_tx_start : decodeTableWord 40 0x10C0010003 = some (.txStart 0xC0#8 0x01#8 3#16) := by decide
theorem test_decode_tx_data : decodeTableWord 40 0x11000000AA = some (.txData 0xAA#8) := by decide
theorem test_decode_tx_abort : decodeTableWord 40 0x1200000000 = some .txAbort := by decide
theorem test_decode_rx_byte : decodeTableWord 40 0x2000000055 = some (.rxByte 0x55#8) := by decide
theorem test_decode_rx_flush : decodeTableWord 40 0x2100000000 = some .rxFlush := by decide
theorem test_decode_reg_read : decodeTableWord 40 0x300000000A = some (.regRead 0x0A#8) := by decide
theorem test_decode_unassigned : decodeTableWord 40 0x0400000000 = none := by decide
theorem test_decode_reserved_bit : decodeTableWord 40 0x0380000000 = none := by decide
theorem test_opcode_is_tested_first : decode 0xFFFFFFFFFF#40 = .error .illegalOpcode := by rfl
theorem test_every_start_bit_is_an_operand :
    decodeTableWord 40 0x10FFFFFFFF = some (.txStart 0xFF#8 0xFF#8 0xFFFF#16) := by decide

/-- The encoder writes the words of 30_encoding.md section 4. -/
theorem test_encode : encode (.crcFeed 0x31#8) = 0x0200000031#40 ∧
    encode (.txStart 0xC0#8 0x01#8 3#16) = 0x10C0010003#40 ∧ encode (.rxByte 0x55#8) = 0x2000000055#40 ∧
    encode (.regRead 0x0A#8) = 0x300000000A#40 ∧ encode .txAbort = 0x1200000000#40 := by decide

/-- Program P5's line `TX_START 0x1F, 0x80, 2   ; 101F800002`. -/
theorem test_assemble_tx_start :
    assembleLine ['T', 'X', '_', 'S', 'T', 'A', 'R', 'T', ' ', '0', 'x', '1', 'F', ',', ' ', '0', 'x', '8', '0',
      ',', ' ', '2', ' ', ';', 'x'] = some [0x101F800002#40] := by decide

/-- R86: `RX_STREAM` of a bracketed list; and an operand that does not fit gives no word (R85). -/
theorem test_assemble_rx_stream :
    assembleLine ['R', 'X', '_', 'S', 'T', 'R', 'E', 'A', 'M', ' ', '[', '0', 'x', '5', '5', ',', '1', ']'] =
      some [0x2000000055#40, 0x2000000001#40] ∧
    assembleLine ['R', 'X', '_', 'B', 'Y', 'T', 'E', ' ', '2', '5', '6'] = none := by decide

/-! ### The CRC (95_test_vectors.md section 2) -/

theorem test_crc_byte : crcByte 0xFFFF#16 0x01#8 = 0x807E#16 ∧ crcByte 0x0000#16 0x01#8 = 0xC0C1#16 ∧
    crcByte 0x8000#16 0x00#8 = 0x0080#16 ∧ crcByte 0x1234#16 0x56#8 = 0xE993#16 := by decide

theorem test_crc16_check_value :
    crc16 [0x31#8, 0x32#8, 0x33#8, 0x34#8, 0x35#8, 0x36#8, 0x37#8, 0x38#8, 0x39#8] = 0x4B37#16 := by decide +kernel

/-! ### Small states under `CFG_EX` (00_scope.md section 4) -/

def cfgEx : Config := ⟨0x55#8, 0x55#8, 0x80#8, 0xB0#8, 0x80#8, false⟩

/-- The reset state under `CFG_EX`. -/
def idle : State := { State.reset with cfg := cfgEx }

/-- `idle` with one input on its ports. -/
def withInput (p : PortInput) : State := { idle with inputs := [p] }

/-- `idle` with one command word on its port. -/
def withWord (w : CmdWord) : State := withInput ⟨false, some w⟩

/-- A frame of type C0, id 01 and `len` body bytes, open, with the bytes `body` received. -/
def openFrame (len : Nat) (body : List Byte) (buf : Memory) : State :=
  let l : Half := BitVec.ofNat 16 len
  { idle with tx := ⟨true, 0xC0#8, 0x01#8, l, BitVec.ofNat 16 (len - body.length),
      crc16 (txPrefix cfgEx 0xC0#8 0x01#8 l ++ body), buf⟩ }

/-- A controller frame's header: type C0, id 2A. -/
def hdrEx : Header := ⟨0x55#8, 0x55#8, 0xB0#8, 0x80#8, 0x2A#8, 0xC0#8⟩

/-- The deframer in the given place of a frame whose covered bytes so far are `covered`. -/
def receiving (state : RxState) (cnt : Nat) (len : Half) (hdr : Header) (covered : List Byte) (crcHi : Byte)
    (buf : Memory) : State :=
  { idle with rx := ⟨state, BitVec.ofNat 16 cnt, hdr, len, crc16 covered, crcHi,
      state != .awaitingHeader && hdrBadOf cfgEx hdr, buf⟩ }

def inHeader4 : State := receiving .awaitingHeader 4 0#16 hdrEx [0xB0#8, 0x80#8] 0#8 []
def inHeader5 : State := receiving .awaitingHeader 5 0#16 hdrEx [0xB0#8, 0x80#8, 0x2A#8] 0#8 []
def inLength0 : State := receiving .awaitingLength 0 0#16 hdrEx hdrEx.tail 0#8 []
def inLength1 : State := receiving .awaitingLength 1 0#16 hdrEx (hdrEx.tail ++ [0x00#8]) 0#8 []

/-- After the header and the length of a frame with the body `01 02 03`. -/
def inBody0 : State := receiving .awaitingBody 0 3#16 hdrEx (hdrEx.tail ++ [0x00#8, 0x03#8]) 0#8 []

def inBody2 : State :=
  receiving .awaitingBody 2 3#16 hdrEx (hdrEx.tail ++ [0x00#8, 0x03#8, 1#8, 2#8]) 0#8 [(0, 1#8), (1, 2#8)]

/-- After the body `01 02 03` of a frame with the given header. -/
def inCrc (cnt : Nat) (hdr : Header) (crcHi : Byte) : State :=
  receiving .awaitingCrc cnt 3#16 hdr (hdr.tail ++ [0x00#8, 0x03#8, 1#8, 2#8, 3#8]) crcHi
    [(0, 1#8), (1, 2#8), (2, 3#8)]

/-- `hdrEx` with a wrong magic. -/
def hdrBadMagic : Header := { hdrEx with magic0 := 0xAA#8 }

/-- `hdrEx` with a wrong address byte 3. -/
def hdrBadAddr : Header := { hdrEx with addr1 := 0x81#8 }

/-- The state a command answers, if it answers one. -/
def after (i : Instr) (s : State) : Option State :=
  match exec i s with
  | .next t => some t
  | .fault _ => none
  | .refused _ => none

/-- The state a step answers, if it answers one. -/
def afterStep (s : State) : Option State :=
  match step s with
  | .next t => some t
  | .fault _ => none
  | .refused _ => none

/-- The events a command appends to an empty trace. -/
def eventsAfter (i : Instr) (s : State) : Option (List Event) := (after i s).map (fun t => t.events)

/-! ### One command on a small state -/

/-- 43_control.md R170. -/
theorem test_nop : after .nop inBody2 = some inBody2 := by decide +kernel

/-- 40_crc.md R104, its example. -/
theorem test_crc_init :
    (after .crcInit { idle with crcAcc := 0x1234#16 }).map (fun t => t.crcAcc) = some 0xFFFF#16 := by decide

/-- 40_crc.md R105, its example. -/
theorem test_crc_feed : (after (.crcFeed 0x01#8) idle).map (fun t => t.crcAcc) = some 0x807E#16 := by decide

/-- 40_crc.md R106, its example. -/
theorem test_crc_read :
    eventsAfter .crcRead { idle with crcAcc := 0x4B37#16 } = some [.crcValue 0x4B37#16] := by decide

/-- 95_test_vectors.md section 3, row 1. -/
theorem test_tx_start_empty : eventsAfter (.txStart 0xC0#8 0x01#8 0#16) idle =
    some [.txFrame [0x55#8, 0x55#8, 0x80#8, 0xB0#8, 0x01#8, 0xC0#8, 0x00#8, 0x00#8, 0xC1#8, 0x5F#8]] := by decide +kernel

/-- 95_test_vectors.md section 5: busy wins over id 0. -/
theorem test_tx_start_busy :
    eventsAfter (.txStart 0xC0#8 0x00#8 1#16) (openFrame 2 [] []) = some [.cmdError 0x10#8 0x03#8] := by decide

/-- 95_test_vectors.md section 5: the last byte of the frame `AA BB`. -/
theorem test_tx_data_last : eventsAfter (.txData 0xBB#8) (openFrame 2 [0xAA#8] [(0, 0xAA#8)]) =
    some [.txFrame [0x55#8, 0x55#8, 0x80#8, 0xB0#8, 0x01#8, 0xC0#8, 0x00#8, 0x02#8, 0xAA#8, 0xBB#8, 0x73#8,
      0x67#8]] := by decide +kernel

/-- 95_test_vectors.md section 5, row 1. -/
theorem test_tx_data_idle : eventsAfter (.txData 0x01#8) idle = some [.cmdError 0x11#8 0x04#8] := by decide

/-- 41_framer.md R123, its example. -/
theorem test_tx_abort : (after .txAbort (openFrame 5 [0x11#8] [(0, 0x11#8)])).map
    (fun t => (t.events, statusWord t, t.tx.rem)) = some ([], 0#32, 0#16) := by decide

/-- 95_test_vectors.md section 4, the partial-frame rows of 6 and 9 bytes. -/
theorem test_rx_byte_partial :
    (after (.rxByte 0xC0#8) inHeader5).map (fun t => (statusWord t, t.rx.cnt, t.rx.crc)) =
      some (1#32, 0#16, 0x3C38#16) ∧
    (after (.rxByte 0x01#8) inBody0).map (fun t => (statusWord t, t.rx.cnt, t.rx.crc)) =
      some (2#32, 1#16, 0xFD51#16) := by decide +kernel

/-- 95_test_vectors.md section 4: good, CRC low byte flipped, magic wrong. -/
theorem test_rx_byte_last :
    eventsAfter (.rxByte 0xBD#8) (inCrc 1 hdrEx 0x70#8) =
      some [.rxFrame 0xB0#8 0x80#8 0x2A#8 0xC0#8 3#16 [1#8, 2#8, 3#8] 0x70BD#16 true] ∧
    eventsAfter (.rxByte 0xBC#8) (inCrc 1 hdrEx 0x70#8) =
      some [.rxCrcError hdrEx 3#16 0x70BC#16 0x70BD#16 true] ∧
    eventsAfter (.rxByte 0xBD#8) (inCrc 1 hdrBadMagic 0x70#8) =
      some [.rxHeaderError hdrBadMagic 3#16 0x70BD#16] := by decide +kernel

/-- 42_deframer.md R149: the four writes; `RX_HDR` and `RX_LEN` stay. -/
theorem test_rx_flush : (after .rxFlush (inCrc 1 hdrBadMagic 0x70#8)).map
    (fun t => (statusWord t, t.rx.cnt, t.rx.crc, t.rx.hdr, t.rx.len)) =
      some (0#32, 0#16, 0xFFFF#16, hdrBadMagic, 3#16) := by decide

/-- 43_control.md R171, its example. -/
theorem test_reg_read : eventsAfter (.regRead 0x0A#8) idle = some [.regValue 0x0A#8 0x0000FFFF#32] := by decide

/-- 95_test_vectors.md section 5: selects 07 and 16. -/
theorem test_reg_read_unassigned :
    eventsAfter (.regRead 0x07#8) idle = some [.cmdError 0x30#8 0x06#8] ∧
    eventsAfter (.regRead 0x16#8) idle = some [.cmdError 0x30#8 0x06#8] := by decide

/-- 95_test_vectors.md section 5: an unassigned opcode and a reserved bit, in one step. -/
theorem test_step_decode_errors :
    (afterStep (withWord 0x0400000000#40)).map (fun t => t.events) = some [.cmdError 0x04#8 0x01#8] ∧
    (afterStep (withWord 0x3000000100#40)).map (fun t => t.events) = some [.cmdError 0x30#8 0x02#8] := by decide

/-- The step after reset runs the word that `withFetchWord` presents. -/
theorem test_step_first_word :
    afterStep (State.withFetchWord idle 40 0x0200000001) = some { idle with crcAcc := 0x807E#16 } := by decide

/-- 95_test_vectors.md section 4, "two frames back to back", by the function of R152. -/
theorem test_deframe : deframe cfgEx
    [0x55#8, 0x55#8, 0xB0#8, 0x80#8, 0x01#8, 0xC0#8, 0x00#8, 0x00#8, 0x35#8, 0x1A#8,
     0x55#8, 0x55#8, 0xB0#8, 0x80#8, 0x2A#8, 0xC0#8, 0x00#8, 0x03#8, 1#8, 2#8, 3#8, 0x70#8, 0xBD#8] =
    [.rxFrame 0xB0#8 0x80#8 0x01#8 0xC0#8 0#16 [] 0x351A#16 true,
     .rxFrame 0xB0#8 0x80#8 0x2A#8 0xC0#8 3#16 [1#8, 2#8, 3#8] 0x70BD#16 true] := by decide +kernel

/-! ### Witnesses of the statements' hypotheses -/

theorem witness_ResetSetsEveryRegister :
    ∃ s : State, s.inputs = ⟨true, some 0x0200000031#40⟩ :: [⟨false, none⟩] ∧ s.tx.busy = true :=
  ⟨{ openFrame 2 [] [] with inputs := [⟨true, some 0x0200000031#40⟩, ⟨false, none⟩] }, by decide⟩

theorem witness_StepRunsTheDecodedCommand :
    (withWord 0x0200000031#40).inputs = [⟨false, some 0x0200000031#40⟩] ∧
    decode 0x0200000031#40 = .ok (.crcFeed 0x31#8) ∧
    (withInput ⟨false, none⟩).inputs = [⟨false, none⟩] ∧ idle.inputs = [] := ⟨rfl, rfl, rfl, rfl⟩

/-- One word for each clause: an unassigned opcode, a reserved bit of form N and of form B (its lowest), a
command of each form with its highest operand bit set. -/
theorem witness_WordsDecodeOrRaiseTheirError :
    (withWord 0x0400000000#40).inputs = [⟨false, some 0x0400000000#40⟩] ∧
    (0x0400000000#40).extractLsb' 32 8 ∉ assignedOps ∧
    ((0x0000000001#40).extractLsb' 32 8 ∈ [0x00#8, 0x01#8, 0x03#8, 0x12#8, 0x21#8] ∧
      (0x0000000001#40).extractLsb' 0 32 ≠ 0#32) ∧
    ((0x3000000100#40).extractLsb' 32 8 ∈ [0x02#8, 0x11#8, 0x20#8, 0x30#8] ∧
      (0x3000000100#40).extractLsb' 8 24 ≠ 0#24) ∧
    ((0x2100000000#40).extractLsb' 32 8 ∈ assignedOps ∧ (0x2100000000#40).extractLsb' 0 32 = 0#32) ∧
    ((0x02000000FF#40).extractLsb' 32 8 ∈ assignedOps ∧ (0x02000000FF#40).extractLsb' 8 24 = 0#24) ∧
    (0x10FFFFFFFF#40).extractLsb' 32 8 ∈ assignedOps := by decide

theorem witness_DecodeOfEncode : (Instr.txStart 0xFF#8 0x01#8 0xFFFF#16).wellFormed = true := by decide

theorem witness_EncodeOfDecode : decode 0x11000000FF#40 = .ok (.txData 0xFF#8) := rfl

theorem witness_WrittenCommandsAssembleOrErr :
    (SourceInstr.mk .txStart [255, 255, 65535]).wellFormed = true ∧
    (SourceInstr.mk .txStart [255, 255, 65536]).wellFormed = false := by decide

theorem witness_PseudoInstructionsExpand :
    (List.replicate 65535 0#8).length ≤ 65535 ∧ 65535 < (List.replicate 65536 0#8).length := by
  simp only [List.length_replicate]; omega

theorem witness_CrcDetectsOneChangedByte : (0x00#8 : Byte) ≠ 0x80#8 := by decide

theorem witness_NopChangesNothing :
    (withWord 0x0000000001#40).inputs = [⟨false, some 0x0000000001#40⟩] ∧
    (0x0000000001#40).extractLsb' 32 8 = 0x00#8 ∧ (0x0000000001#40 : CmdWord) ≠ 0#40 := by decide

/-- A busy framer; an idle one with id 0; an idle one with an empty body; an idle one with the longest. -/
theorem witness_TxStartFollowsItsRule :
    (openFrame 1 [] []).tx.busy = true ∧ (idle.tx.busy = false ∧ (0#8 : Byte) = 0#8) ∧
    (idle.tx.busy = false ∧ (255#8 : Byte) ≠ 0#8 ∧ (0#16 : Half) = 0#16) ∧
    (idle.tx.busy = false ∧ (1#8 : Byte) ≠ 0#8 ∧ (65535#16 : Half) ≠ 0#16) := by decide

/-- An idle framer; the last byte of a frame; the first byte of a frame of two. -/
theorem witness_TxDataFollowsItsRule :
    idle.tx.busy = false ∧
    (let s := openFrame 2 [0xAA#8] [(0, 0xAA#8)]
     s.tx.busy = true ∧ 1 ≤ s.tx.rem.toNat ∧ s.tx.rem.toNat ≤ s.tx.len.toNat ∧ s.tx.buf.wf = true ∧
       s.tx.rem.toNat = 1) ∧
    (let s := openFrame 2 [] []
     s.tx.busy = true ∧ 1 ≤ s.tx.rem.toNat ∧ s.tx.rem.toNat ≤ s.tx.len.toNat ∧ s.tx.buf.wf = true ∧
       s.tx.rem.toNat ≠ 1 ∧ s.tx.rem.toNat = s.tx.len.toNat) := by decide

theorem witness_TxAbortDropsTheOpenFrame : idle.Inv ∧ idle.tx.busy = false := by decide

/-- `TX_FRAME` of a two-byte body with commands of the other parts in between, and of the empty body. -/
theorem witness_TxFrameCommandsSendOneFrame :
    idle.Inv ∧ idle.tx.busy = false ∧ (0x80#8 : Byte) ≠ 0#8 ∧ [0xAA#8, 0xBB#8].length ≤ 65535 ∧
    [Instr.txStart 0x1F#8 0x80#8 2#16, .rxByte 0x55#8, .crcInit, .txData 0xAA#8, .regRead 0#8, .rxFlush,
      .txData 0xBB#8].filter (fun i => decide (commandPart i = .framer)) = txFrame 0x1F#8 0x80#8 [0xAA#8, 0xBB#8] ∧
    [Instr.nop, .txStart 0x1F#8 0x80#8 0#16].filter (fun i => decide (commandPart i = .framer)) =
      txFrame 0x1F#8 0x80#8 [] := by decide

/-- A frame of one byte with none given, and of three with two given. -/
theorem witness_AnUnfinishedFrameSendsNothing :
    idle.tx.busy = false ∧ (1#8 : Byte) ≠ 0#8 ∧ ([] : List Byte).length < (1#16 : Half).toNat ∧
    [0xAA#8, 0xBB#8].length < (3#16 : Half).toNat := by decide

theorem witness_FrameBytesCarryTheirLengthAndCrc :
    ([] : List Byte).length ≤ 65535 ∧ (List.replicate 65535 0#8).length ≤ 65535 := by
  simp only [List.length_replicate]; decide

/-- A frame from `TX_START` (95_test_vectors.md section 3, row 1), one from the last `TX_DATA` (section 5), and
a receiver with `RX_ADDR = TX_ADDR1`. -/
theorem witness_EmittedFrameLoopsBack :
    let s := openFrame 2 [0xAA#8] [(0, 0xAA#8)]
    let r := { idle with cfg := { cfgEx with rxAddr := 0xB0#8 } }
    (idle.Inv ∧ ∃ t, exec (.txStart 0xC0#8 0x01#8 0#16) idle = .next t ∧ t.events = idle.events ++
      [.txFrame [0x55#8, 0x55#8, 0x80#8, 0xB0#8, 0x01#8, 0xC0#8, 0x00#8, 0x00#8, 0xC1#8, 0x5F#8]]) ∧
    (s.Inv ∧ ∃ t, exec (.txData 0xBB#8) s = .next t ∧ t.events = s.events ++
      [.txFrame [0x55#8, 0x55#8, 0x80#8, 0xB0#8, 0x01#8, 0xC0#8, 0x00#8, 0x02#8, 0xAA#8, 0xBB#8, 0x73#8, 0x67#8]]) ∧
    r.Inv ∧ r.rx.state = .awaitingHeader ∧ r.rx.cnt = 0#16 ∧ r.cfg.hdrMagic0 = idle.cfg.hdrMagic0 ∧
    r.cfg.hdrMagic1 = idle.cfg.hdrMagic1 ∧ r.cfg.rxAddr = idle.cfg.txAddr1 ∧ r.cfg.rxAddr = s.cfg.txAddr1 :=
  ⟨⟨by decide +kernel, _, rfl, by decide +kernel⟩, ⟨by decide +kernel, _, rfl, by decide +kernel⟩,
    by decide +kernel, rfl, rfl, rfl, rfl, rfl, rfl⟩

/-- Header bytes 0, 4 and 5. -/
theorem witness_RxHeaderBytesFollowTheirRules :
    (idle.rx.state = .awaitingHeader ∧ idle.rx.cnt.toNat ≤ 4) ∧
    (inHeader4.rx.state = .awaitingHeader ∧ inHeader4.rx.cnt.toNat ≤ 4 ∧ inHeader4.rx.cnt.toNat = 4) ∧
    (inHeader5.rx.state = .awaitingHeader ∧ inHeader5.rx.cnt = 5#16) := by decide

theorem witness_RxLengthBytesFollowTheirRules :
    (inLength0.rx.state = .awaitingLength ∧ inLength0.rx.cnt = 0#16) ∧
    (inLength1.rx.state = .awaitingLength ∧ inLength1.rx.cnt = 1#16) := by decide

/-- The first and the last body byte. -/
theorem witness_RxBodyByteFollowsItsRule :
    (inBody0.rx.state = .awaitingBody ∧ 1 ≤ inBody0.rx.len.toNat ∧
      inBody0.rx.cnt.toNat ≤ inBody0.rx.len.toNat - 1 ∧ inBody0.rx.buf.wf = true ∧
      inBody0.rx.cnt.toNat ≠ inBody0.rx.len.toNat - 1) ∧
    (inBody2.rx.state = .awaitingBody ∧ 1 ≤ inBody2.rx.len.toNat ∧
      inBody2.rx.cnt.toNat ≤ inBody2.rx.len.toNat - 1 ∧ inBody2.rx.buf.wf = true ∧
      inBody2.rx.cnt.toNat = inBody2.rx.len.toNat - 1) := by decide

/-- CRC byte 0; CRC byte 1 that mismatches, that matches under a good header, under a bad header that is
delivered, and under a bad header that is not. -/
theorem witness_RxCrcBytesCompleteTheFrame :
    let s0 := inCrc 0 hdrEx 0#8
    let s1 := inCrc 1 hdrEx 0x70#8
    let s2 := inCrc 1 hdrBadMagic 0x70#8
    let s3 := { s2 with cfg := { s2.cfg with hdrMismatchDelivers := true } }
    (s0.rx.state = .awaitingCrc ∧ s0.rx.cnt = 0#16) ∧
    (s1.rx.state = .awaitingCrc ∧ s1.rx.cnt = 1#16 ∧ be16 s1.rx.crcHi 0xBC#8 ≠ s1.rx.crc) ∧
    (be16 s1.rx.crcHi 0xBD#8 = s1.rx.crc ∧ (!s1.rx.hdrBad) = true) ∧
    (s2.rx.state = .awaitingCrc ∧ s2.rx.cnt = 1#16 ∧ be16 s2.rx.crcHi 0xBD#8 = s2.rx.crc ∧
      (!s2.rx.hdrBad) = false ∧ s2.cfg.hdrMismatchDelivers = false) ∧
    (s3.rx.state = .awaitingCrc ∧ s3.rx.cnt = 1#16 ∧ be16 s3.rx.crcHi 0xBD#8 = s3.rx.crc ∧
      s3.cfg.hdrMismatchDelivers = true) := by decide +kernel

theorem witness_RxFlushRestartsTheDeframer :
    idle.Inv ∧ idle.rx.state = .awaitingHeader ∧ idle.rx.cnt = 0#16 := by decide

/-- Seven bytes; eight and nine bytes of an empty frame; whole frames that match, mismatch, and match under a
bad magic. -/
theorem witness_DeframerComputesDeframe :
    (idle.Inv ∧ idle.rx.state = .awaitingHeader ∧ idle.rx.cnt = 0#16) ∧
    (let s7 := hdrEx.toList ++ [0#8]
     let s8 := hdrEx.toList ++ [0#8, 0#8]
     let s9 := hdrEx.toList ++ [0#8, 0#8, 0x35#8]
     let L (s : List Byte) : Nat := (be16 (s.getD 6 0) (s.getD 7 0)).toNat
     let whole (hdr : Header) (low : Byte) : List Byte :=
       hdr.toList ++ [0#8, 3#8, 1#8, 2#8, 3#8, 0x70#8, low]
     let rx (s : List Byte) : Half := be16 (s.getD (8 + L s) 0) (s.getD (9 + L s) 0)
     let crcOf (s : List Byte) : Half := crc16 ((s.drop 2).take (6 + L s))
     s7.length < 8 ∧ (8 ≤ s8.length ∧ s8.length < 10 + L s8) ∧ (8 ≤ s9.length ∧ s9.length < 10 + L s9) ∧
     (10 + L (whole hdrEx 0xBD#8) ≤ (whole hdrEx 0xBD#8).length ∧
       rx (whole hdrEx 0xBD#8) = crcOf (whole hdrEx 0xBD#8) ∧ hdrOk cfgEx 0x55#8 0x55#8 0x80#8 = true) ∧
     (10 + L (whole hdrEx 0xBC#8) ≤ (whole hdrEx 0xBC#8).length ∧
       rx (whole hdrEx 0xBC#8) ≠ crcOf (whole hdrEx 0xBC#8)) ∧
     (10 + L (whole hdrBadMagic 0xBD#8) ≤ (whole hdrBadMagic 0xBD#8).length ∧
       rx (whole hdrBadMagic 0xBD#8) = crcOf (whole hdrBadMagic 0xBD#8) ∧
       hdrOk cfgEx 0xAA#8 0x55#8 0x80#8 = false ∧ cfgEx.hdrMismatchDelivers = false)) := by decide +kernel

/-- Two states in the same place of the stream with different headers and CRCs, and two different bytes; and
the same at a length byte with one byte. -/
theorem witness_FrameBoundariesComeFromCountingAlone :
    (let s := inCrc 1 hdrBadMagic 0x70#8
     let s' := inCrc 1 hdrBadAddr 0x00#8
     s'.rx.state = s.rx.state ∧ s'.rx.cnt = s.rx.cnt ∧ s'.rx.len = s.rx.len ∧
       (s.rx.state = .awaitingLength → (0x42#8 : Byte) = 0xBD#8) ∧ ∃ t, exec (.rxByte 0xBD#8) s = .next t) ∧
    (let s := inLength1
     let s' := { inLength1 with rx := { inLength1.rx with hdr := hdrBadMagic, crc := 0#16 } }
     s'.rx.state = s.rx.state ∧ s'.rx.cnt = s.rx.cnt ∧ s'.rx.len = s.rx.len ∧
       (s.rx.state = .awaitingLength → (3#8 : Byte) = 3#8) ∧ ∃ t, exec (.rxByte 3#8) s = .next t) :=
  ⟨⟨rfl, rfl, rfl, by decide, _, rfl⟩, ⟨rfl, rfl, rfl, by decide, _, rfl⟩⟩

theorem witness_RxFlushRealignsTheStream : inBody2.Inv ∧ inBody2.rx.state = .awaitingBody := by decide +kernel

theorem witness_EveryGoodFrameIsDelivered :
    idle.Inv ∧ idle.rx.state = .awaitingHeader ∧ idle.rx.cnt = 0#16 ∧ ([] : List Byte).length ≤ 65535 ∧
    (List.replicate 65535 0x55#8).length ≤ 65535 := by
  simp only [List.length_replicate]; decide

/-- A wrong magic; a wrong address byte 3; a CRC over other bytes than those. -/
theorem witness_HeaderFaultsAreReportedByTheirCrc :
    (idle.Inv ∧ idle.rx.state = .awaitingHeader ∧ idle.rx.cnt = 0#16 ∧ [1#8, 2#8, 3#8].length ≤ 65535 ∧
      idle.cfg.hdrMismatchDelivers = false) ∧
    hdrBadMagic.magic0 ≠ idle.cfg.hdrMagic0 ∧ hdrBadAddr.addr1 ≠ idle.cfg.rxAddr ∧
    0x70BD#16 ≠ crc16 (hdrBadAddr.tail ++ u16be 3#16 ++ [1#8, 2#8, 3#8]) := by decide +kernel

/-- Selects at the edges of the map's gaps. -/
theorem witness_RegReadReportsTheSelectedRegister :
    [0x00#8, 0x06#8, 0x08#8, 0x0B#8, 0x10#8, 0x15#8].all (fun sel => decide (sel ∈ assignedSelects)) = true ∧
    [0x07#8, 0x0C#8, 0x0F#8, 0x16#8, 0xFF#8].all (fun sel => decide (sel ∉ assignedSelects)) = true := by decide

theorem witness_ReadsHaveNoSideEffect :
    (Instr.crcRead = .crcRead ∨ ∃ sel, Instr.crcRead = .regRead sel) ∧
    (Instr.regRead 0x07#8 = .crcRead ∨ ∃ sel, Instr.regRead 0x07#8 = .regRead sel) := ⟨.inl rfl, .inr ⟨_, rfl⟩⟩

/-- Each command of the two parts answers a next state. -/
theorem witness_ChecksumAndControlCommandsFrame :
    [Instr.nop, .crcInit, .crcFeed 1#8, .crcRead, .regRead 0#8].all (fun i =>
      (decide (commandPart i = .checksum) || decide (commandPart i = .control)) && (after i inBody2).isSome) =
      true := by decide

/-- Each command of the framer answers a next state, with no frame open and with one open. -/
theorem witness_FramerCommandsFrame :
    [Instr.txStart 1#8 1#8 0#16, .txStart 1#8 1#8 2#16, .txData 1#8, .txAbort].all (fun i =>
      decide (commandPart i = .framer) && (after i idle).isSome && (after i (openFrame 2 [] [])).isSome) = true ∧
    idle.tx.busy = false := by decide

/-- Each command of the deframer answers a next state in every sub-state. -/
theorem witness_DeframerCommandsFrame :
    [Instr.rxByte 1#8, .rxFlush].all (fun i => decide (commandPart i = .deframer) &&
      [inHeader5, inLength1, inBody2, inCrc 1 hdrEx 0x70#8].all (fun s => (after i s).isSome)) = true := by decide

/-- The invariant holds, and the step answers a next state, in the middle of a sent and of a received frame. -/
theorem witness_StepKeepsTheInvariant :
    [openFrame 2 [0xAA#8] [(0, 0xAA#8)], inHeader4, inHeader5, inLength0, inLength1, inBody0, inBody2,
      inCrc 0 hdrEx 0#8, inCrc 1 hdrBadMagic 0x70#8].all (fun s =>
        decide s.Inv && (afterStep { s with inputs := [⟨false, some 0x20000000BD#40⟩] }).isSome) = true := by decide +kernel

theorem witness_StepNeverStops : State.Inv inBody2 ∧ State.Inv (openFrame 2 [] []) := ⟨by decide +kernel, by decide +kernel⟩

theorem witness_EveryEventIsLegal :
    let s := { openFrame 2 [0xAA#8] [(0, 0xAA#8)] with
      events := [.cmdError 0x11#8 0x04#8, .crcValue 0x807E#16], inputs := [⟨false, some 0x11000000BB#40⟩] }
    s.Inv ∧ s.TraceLegal ∧ ∃ t, step s = .next t := by
  refine ⟨by decide +kernel, ?_, ⟨_, rfl⟩⟩
  intro e he
  simp only [List.mem_cons, List.not_mem_nil, or_false] at he
  rcases he with rfl | rfl
  · exact .inr (.inr (.inr (.inl ⟨rfl, rfl⟩)))
  · trivial

/-- A step that raises each of the two kinds of error, by the decoder and by a command. -/
theorem witness_ErrorsHaveNoOtherEffect :
    (∃ t, step (withWord 0x9900000000#40) = .next t ∧ t.events = [] ++ [.cmdError 0x99#8 0x01#8]) ∧
    (∃ t, step (withWord 0x11000000CC#40) = .next t ∧ t.events = [] ++ [.cmdError 0x11#8 0x04#8]) :=
  ⟨⟨_, rfl, by decide⟩, ⟨_, rfl, by decide⟩⟩

theorem witness_StepAppendsAtMostOneEvent :
    (∃ t, step (withWord 0x0300000000#40) = .next t) ∧ (∃ t, step (withInput ⟨true, none⟩) = .next t) :=
  ⟨⟨_, rfl⟩, ⟨_, rfl⟩⟩

theorem witness_ReceivedBytesRaiseNoError : ∃ t, exec (.rxByte 0xBC#8) (inCrc 1 hdrEx 0x70#8) = .next t := ⟨_, rfl⟩

/-- Program P5's start, interleaved; and a command of one part beside another part. -/
theorem witness_PartsDoNotInterfere :
    (∃ t, exec (.txStart 0x1F#8 0x80#8 2#16) idle = .next t ∧ Part.deframer ≠ commandPart (.txStart 0x1F#8 0x80#8 2#16)) ∧
    (∃ t, execAll [.txStart 0x1F#8 0x80#8 2#16, .rxByte 0x55#8, .crcInit, .txData 0xAA#8, .crcRead, .txData 0xBB#8]
      idle = .next t) ∧ Part.framer ≠ .control ∧ Part.deframer ≠ .control ∧ Part.checksum ≠ .control :=
  ⟨⟨_, rfl, by decide⟩, ⟨_, rfl⟩, by decide, by decide, by decide⟩

/-- Two framers that differ in a byte of `TX_BUF` the open frame has not written yet. -/
theorem witness_UnwrittenBufferBytesAreNeverSeen :
    let ports : List PortInput := [⟨false, some 0x11000000BB#40⟩]
    let s := { openFrame 3 [0xAA#8] [(0, 0xAA#8)] with inputs := ports }
    let s' := { openFrame 3 [0xAA#8] [(0, 0xAA#8), (2, 0x07#8)] with inputs := ports }
    s.Inv ∧ s'.Inv ∧ s ≠ s' ∧ SameButUnwritten s s' ∧ ∃ t, step s = .next t := by
  refine ⟨by decide +kernel, by decide +kernel, by decide +kernel, ?_, ⟨_, rfl⟩⟩
  unfold SameButUnwritten
  decide +kernel

/-- The first counts out of range, for each clause. -/
theorem witness_StatesWithoutARuleStopByName :
    (let s0 := openFrame 0 [] []
     let s1 := { openFrame 1 [] [] with tx := { (openFrame 1 [] []).tx with rem := 2#16 } }
     s0.tx.busy = true ∧ s0.tx.rem.toNat = 0 ∧ s1.tx.busy = true ∧ s1.tx.len.toNat < s1.tx.rem.toNat) ∧
    (receiving .awaitingHeader 6 0#16 hdrEx [] 0#8 []).rx.cnt.toNat = 6 ∧
    (receiving .awaitingLength 2 0#16 hdrEx [] 0#8 []).rx.cnt.toNat = 2 ∧
    (receiving .awaitingBody 3 3#16 hdrEx [] 0#8 []).rx.len.toNat ≤ 3 ∧
    (receiving .awaitingCrc 2 3#16 hdrEx [] 0#8 []).rx.cnt.toNat = 2 := by decide

end Sys2Proof.Tests
end

section
/-! What a command and a step do to the event trace and the ports. -/

namespace Sys2Proof.Machine

open Sys2Proof

variable {s t u : State}

/-! ### The next state of the commands that choose between cases -/

/-- The error cases of R121 are written with the framer as it was, so that all cases have one form. -/
theorem exec_txStart_next {mtype id : Byte} {len : Half} (h : exec (.txStart mtype id len) s = .next t) :
    ∃ tx, t = s.setTx tx ∨ ∃ e, t = (s.setTx tx).emit e := by
  obtain ⟨-, hx⟩ | ⟨-, -, hx⟩ | ⟨-, -, -, hx⟩ | ⟨-, -, -, hx⟩ := exec_txStart_cases mtype id len s <;>
    cases hx.symm.trans h
  · exact ⟨s.tx, .inr ⟨_, rfl⟩⟩
  · exact ⟨s.tx, .inr ⟨_, rfl⟩⟩
  · exact ⟨_, .inr ⟨_, rfl⟩⟩
  · exact ⟨_, .inl rfl⟩

/-- The error case of R122 is written as those of R121 are; the fault has no next state. -/
theorem exec_txData_next {d8 : Byte} (h : exec (.txData d8) s = .next t) :
    ∃ tx, t = s.setTx tx ∨ ∃ e, t = (s.setTx tx).emit e := by
  obtain ⟨-, hx⟩ | ⟨-, -, hx⟩ | ⟨-, -, -, -, hx⟩ | ⟨-, -, -, -, hx⟩ := exec_txData_cases d8 s <;>
    cases hx.symm.trans h
  · exact ⟨s.tx, .inr ⟨_, rfl⟩⟩
  · exact ⟨_, .inr ⟨_, rfl⟩⟩
  · exact ⟨_, .inl rfl⟩

/-- The six cases of R141 to R146 write only the deframer; the seventh completes the frame (R147, R148). -/
theorem exec_rxByte_next {d8 : Byte} (h : exec (.rxByte d8) s = .next t) :
    (∃ rx, t = s.setRx rx) ∨ t = rxCrcLow d8 s := by
  obtain ⟨-, -, hx⟩ | ⟨-, -, hx⟩ | ⟨-, -, hx⟩ | ⟨-, -, hx⟩ | ⟨-, -, hx⟩ | ⟨-, -, hx⟩ | ⟨-, -, hx⟩ | ⟨-, hx⟩ :=
    exec_rxByte_cases d8 s <;> cases hx.symm.trans h
  iterate 6 exact .inl ⟨_, rfl⟩
  exact .inr rfl

/-! ### At most one event -/

/-- The trace of `t` is that of `s` with at most one event more, and the ports are the same. -/
def AtMostOneEvent (s t : State) : Prop :=
  (t.events = s.events ∨ ∃ e, t.events = s.events ++ [e]) ∧ SamePorts s t

theorem AtMostOneEvent.of_quiet (he : t.events = s.events) (hp : SamePorts s t) : AtMostOneEvent s t :=
  ⟨.inl he, hp⟩

theorem AtMostOneEvent.of_emit (e : Event) (he : u.events = s.events) (hp : SamePorts s u) :
    AtMostOneEvent s (u.emit e) :=
  ⟨.inr ⟨e, by rw [State.emit_events, he]⟩, hp⟩

theorem AtMostOneEvent.of_setTx (h : ∃ tx, t = s.setTx tx ∨ ∃ e, t = (s.setTx tx).emit e) :
    AtMostOneEvent s t := by
  obtain ⟨tx, rfl | ⟨e, rfl⟩⟩ := h
  · exact .of_quiet rfl ⟨rfl, rfl⟩
  · exact .of_emit e rfl ⟨rfl, rfl⟩

/-- The "Events" line of each command's rule, in every state. -/
theorem exec_atMostOneEvent {i : Instr} (h : exec i s = .next t) : AtMostOneEvent s t := by
  cases i with
  | nop | crcInit | crcFeed | txAbort | rxFlush =>
    cases h
    exact .of_quiet rfl ⟨rfl, rfl⟩
  | crcRead =>
    cases h
    exact .of_emit _ rfl ⟨rfl, rfl⟩
  | txStart mtype id len => exact .of_setTx (exec_txStart_next h)
  | txData d8 => exact .of_setTx (exec_txData_next h)
  | rxByte d8 =>
    obtain ⟨rx, rfl⟩ | rfl := exec_rxByte_next h
    · exact .of_quiet rfl ⟨rfl, rfl⟩
    · exact .of_emit _ rfl ⟨rfl, rfl⟩
  | regRead sel =>
    obtain ⟨v, -, hx⟩ | ⟨-, hx⟩ := exec_regRead_cases sel s <;> cases hx.symm.trans h
    · exact .of_emit _ rfl ⟨rfl, rfl⟩
    · exact .of_emit _ rfl ⟨rfl, rfl⟩

/-- The events and the parameters are compared with the state whose first input has been taken, which is the
state a command runs on. -/
theorem step_atMostOneEvent (h : step s = .next t) : AtMostOneEvent (s.setInputs s.inputs.tail) t := by
  obtain ⟨hi, hx⟩ | ⟨rest, hi, hx⟩ | ⟨c, rest, hi, hx⟩ | ⟨w, rest, e, hi, -, hx⟩ | ⟨w, rest, i, hi, -, hx⟩ :=
    step_cases s <;> rw [hi]
  · cases hx.symm.trans h
    exact .of_quiet rfl ⟨rfl, hi⟩
  · cases hx.symm.trans h
    exact .of_quiet rfl ⟨rfl, rfl⟩
  · cases hx.symm.trans h
    exact .of_quiet rfl ⟨rfl, rfl⟩
  · cases hx.symm.trans h
    exact .of_emit _ rfl ⟨rfl, rfl⟩
  · exact exec_atMostOneEvent (hx.symm.trans h)

/-- Settles O46: each command appends at most one event and keeps the ports, and a step only takes the first
input beside that. -/
theorem stepAppendsAtMostOneEvent : Obligations.StepAppendsAtMostOneEvent := by
  intro s t h
  obtain ⟨hevents, hcfg, hinputs⟩ := step_atMostOneEvent h
  exact ⟨hevents, hcfg, hinputs⟩

end Sys2Proof.Machine
end

section
/-! The bits of `STATUS` (10_state.md R30). -/

namespace Sys2Proof.Machine

open Sys2Proof

variable (s : State)

theorem statusWord_rxState : (statusWord s).extractLsb' 0 2 = s.rx.state.code := by
  rw [statusWord, BitVec.extractLsb'_append_eq_of_add_le (by decide),
    BitVec.extractLsb'_append_eq_of_add_le (by decide)]
  exact BitVec.extractLsb'_append_eq_right

theorem statusWord_txBusy : (statusWord s).getLsbD 2 = s.tx.busy := by
  simp only [statusWord, BitVec.getLsbD_append]
  simp

theorem statusWord_rxHdrBad : (statusWord s).getLsbD 3 = s.rx.hdrBad := by
  simp only [statusWord, BitVec.getLsbD_append]
  simp

theorem statusWord_reserved : (statusWord s).extractLsb' 4 28 = 0#28 :=
  BitVec.extractLsb'_append_eq_left

/-- Settles O37, field by field of the concatenation that `STATUS` is. -/
theorem statusWordShowsTheFlags : Obligations.StatusWordShowsTheFlags :=
  ⟨rfl, fun s =>
    ⟨statusWord_rxState s, statusWord_txBusy s, statusWord_rxHdrBad s, statusWord_reserved s⟩⟩

end Sys2Proof.Machine
end

section
/-! Every operation keeps the invariants of the framer and the deframer (10_state.md R24, R27). -/

namespace Sys2Proof.Machine

open Sys2Proof

variable {cfg : Config} {s t : State}

theorem Memory.Good.write {m : Memory} (hm : m.Good) {a : Nat} (ha : a < bufferSize) (v : Byte) :
    (m.write a v).Good := by
  obtain ⟨hwf, hrange⟩ := hm
  exact ⟨Memory.write_wf m a v hwf, Memory.write_inRange m a v ha hrange⟩

theorem lt_bufferSize_of_lt {a : Nat} {len : Half} (h : a < len.toNat) : a < bufferSize := by
  have := len.isLt
  unfold bufferSize
  omega

/-! ### Counters -/

theorem toNat_pos_of_ne_zero {v : Half} (h : v ≠ 0#16) : 1 ≤ v.toNat := by
  bv_omega

theorem toNat_sub_one {v : Half} (h : 1 ≤ v.toNat) : (v - 1#16).toNat = v.toNat - 1 := by
  bv_omega

theorem toNat_add_one {v : Half} (h : v.toNat < bufferSize) : (v + 1#16).toNat = v.toNat + 1 := by
  unfold bufferSize at h
  bv_omega

/-! ### The framer -/

section
variable {tx : Framer}

theorem Framer.Inv.good (h : tx.Inv cfg) : tx.buf.Good := by
  obtain ⟨-, -, hbuf⟩ := h
  exact hbuf

theorem Framer.inv_idle (hb : tx.busy = false) : tx.Inv cfg ↔ tx.rem = 0#16 ∧ tx.buf.Good := by
  simp [Framer.Inv, hb]

theorem Framer.inv_busy (hb : tx.busy = true) :
    tx.Inv cfg ↔ 1 ≤ tx.rem.toNat ∧ tx.rem.toNat ≤ tx.len.toNat ∧ tx.id ≠ 0#8 ∧
      tx.crc = crc16 (txPrefix cfg tx.mtype tx.id tx.len ++ tx.bodySoFar) ∧ tx.buf.Good := by
  simp [Framer.Inv, hb, and_assoc]

theorem Framer.inv_reset : Framer.reset.Inv cfg := (Framer.inv_idle rfl).2 ⟨rfl, rfl, rfl⟩

/-- A frame just opened has no body byte yet. -/
theorem Framer.inv_open {mtype id : Byte} {len : Half} {buf : Memory} (hid : id ≠ 0#8) (hlen : len ≠ 0#16)
    (hbuf : buf.Good) :
    Framer.Inv cfg ⟨true, mtype, id, len, len, crc16 (txPrefix cfg mtype id len), buf⟩ := by
  refine (Framer.inv_busy rfl).2 ⟨toNat_pos_of_ne_zero hlen, le_rfl, hid, ?_, hbuf⟩
  simp [Framer.bodySoFar, txIndex]

theorem txIndex_lt_len (h1 : 1 ≤ tx.rem.toNat) (h2 : tx.rem.toNat ≤ tx.len.toNat) : txIndex tx < tx.len.toNat := by
  unfold txIndex
  omega

theorem txIndex_txAfterByte (d8 : Byte) (h1 : 1 ≤ tx.rem.toNat) (h2 : tx.rem.toNat ≤ tx.len.toNat) :
    txIndex (txAfterByte d8 tx) = txIndex tx + 1 := by
  simp only [txIndex, txAfterByte, toNat_sub_one h1]
  omega

/-- The byte of R122 that is not the last leaves the frame open, with that byte in its body and its CRC. -/
theorem Framer.inv_txAfterByte {d8 : Byte} (h : tx.Inv cfg) (hb : tx.busy = true) (hr : tx.rem ≠ 1#16) :
    (txAfterByte d8 tx).Inv cfg := by
  obtain ⟨h1, h2, hid, hcrc, hbuf⟩ := (Framer.inv_busy hb).1 h
  have hrem : (tx.rem - 1#16).toNat = tx.rem.toNat - 1 := toNat_sub_one h1
  have hne : tx.rem.toNat ≠ 1 := fun e => hr (BitVec.eq_of_toNat_eq e)
  have hbuf' := hbuf.write (lt_bufferSize_of_lt (txIndex_lt_len h1 h2)) d8
  refine (Framer.inv_busy (tx := txAfterByte d8 tx) hb).2 ⟨?_, ?_, hid, ?_, hbuf'⟩
  · show 1 ≤ (tx.rem - 1#16).toNat
    omega
  · show (tx.rem - 1#16).toNat ≤ tx.len.toNat
    omega
  · have hbody : (txAfterByte d8 tx).bodySoFar = tx.bodySoFar ++ [d8] := by
      rw [Framer.bodySoFar, txIndex_txAfterByte d8 h1 h2]
      exact Memory.firstBytes_write _ _ _ hbuf.1
    rw [hbody, ← List.append_assoc, crc16_concat]
    exact congrArg (crcByte · d8) hcrc

end

/-! ### The deframer: its invariant in each sub-state -/

section
variable {rx : Deframer}

theorem Deframer.Inv.good (h : rx.Inv cfg) : rx.buf.Good := by
  obtain ⟨-, -, -, -, -, -, hbuf⟩ := h
  exact hbuf

theorem Deframer.inv_awaitingHeader (hs : rx.state = .awaitingHeader) :
    rx.Inv cfg ↔ rx.cnt.toNat ≤ 5 ∧ rx.hdrBad = false ∧
      rx.crc = crc16 ((rx.hdr.toList.take rx.cnt.toNat).drop 2) ∧ rx.buf.Good := by
  simp [Deframer.Inv, Deframer.coveredSoFar, hs, and_assoc]

theorem Deframer.inv_awaitingLength (hs : rx.state = .awaitingLength) :
    rx.Inv cfg ↔ rx.cnt.toNat ≤ 1 ∧ rx.hdrBad = hdrBadOf cfg rx.hdr ∧
      rx.crc = crc16 (rx.hdr.tail ++ (u16be rx.len).take rx.cnt.toNat) ∧ rx.buf.Good := by
  simp [Deframer.Inv, Deframer.coveredSoFar, hs]

theorem Deframer.inv_awaitingBody (hs : rx.state = .awaitingBody) :
    rx.Inv cfg ↔ rx.cnt.toNat < rx.len.toNat ∧ rx.hdrBad = hdrBadOf cfg rx.hdr ∧
      rx.crc = crc16 (rx.hdr.tail ++ u16be rx.len ++ rx.buf.firstBytes rx.cnt.toNat) ∧ rx.buf.Good := by
  have hcnt : (1 ≤ rx.len.toNat ∧ rx.cnt.toNat ≤ rx.len.toNat - 1) ↔ rx.cnt.toNat < rx.len.toNat := by omega
  simp [Deframer.Inv, Deframer.coveredSoFar, hs, hcnt]

theorem Deframer.inv_awaitingCrc (hs : rx.state = .awaitingCrc) :
    rx.Inv cfg ↔ rx.cnt.toNat ≤ 1 ∧ rx.hdrBad = hdrBadOf cfg rx.hdr ∧
      rx.crc = crc16 (rx.hdr.tail ++ u16be rx.len ++ rx.buf.firstBytes rx.len.toNat) ∧ rx.buf.Good := by
  simp [Deframer.Inv, Deframer.coveredSoFar, hs]

/-! ### The deframer: each case rule -/

theorem Deframer.inv_reset : Deframer.reset.Inv cfg :=
  (Deframer.inv_awaitingHeader rfl).2 ⟨Nat.zero_le _, rfl, rfl, rfl, rfl⟩

theorem Deframer.inv_rxRestart (hbuf : rx.buf.Good) : (rxRestart rx).Inv cfg :=
  (Deframer.inv_awaitingHeader rfl).2 ⟨Nat.zero_le _, rfl, rfl, hbuf⟩

theorem Header.take_set (h : Header) {k : Nat} (hk : k ≤ 5) (d : Byte) :
    (h.set k d).toList.take (k + 1) = h.toList.take k ++ [d] := by
  interval_cases k <;> rfl

theorem Header.length_toList (h : Header) : h.toList.length = 6 := rfl

/-- The two magic bytes stay out of the CRC, so this is R141's test of `RX_CNT`. -/
theorem Header.crc16_covered_set (h : Header) {k : Nat} (hk : k ≤ 5) (d : Byte) :
    crc16 (((h.set k d).toList.take (k + 1)).drop 2) =
      if 2 ≤ k then crcByte (crc16 ((h.toList.take k).drop 2)) d else crc16 ((h.toList.take k).drop 2) := by
  have hlen : (h.toList.take k).length = k := by
    rw [List.length_take, Header.length_toList]
    omega
  rw [Header.take_set h hk d]
  split_ifs with h2
  · rw [List.drop_append_of_le_length (by omega), crc16_concat]
  · rw [List.drop_eq_nil_of_le (by simp; omega), List.drop_eq_nil_of_le (by omega)]

theorem Deframer.inv_rxHeaderByte {d8 : Byte} (h : rx.Inv cfg) (hs : rx.state = .awaitingHeader)
    (hc : rx.cnt.toNat ≤ 4) : (rxHeaderByte d8 rx).Inv cfg := by
  obtain ⟨-, hbad, hcrc, hbuf⟩ := (Deframer.inv_awaitingHeader hs).1 h
  have hcnt : (rx.cnt + 1#16).toNat = rx.cnt.toNat + 1 := toNat_add_one (hc.trans_lt (by decide))
  refine (Deframer.inv_awaitingHeader (rx := rxHeaderByte d8 rx) hs).2 ⟨?_, hbad, ?_, hbuf⟩
  · show (rx.cnt + 1#16).toNat ≤ 5
    omega
  · simp only [rxHeaderByte, hcnt, Header.crc16_covered_set _ (show rx.cnt.toNat ≤ 5 by omega), hcrc]

theorem Deframer.inv_rxTypeByte {d8 : Byte} (h : rx.Inv cfg) (hs : rx.state = .awaitingHeader)
    (hc : rx.cnt = 5#16) : (rxTypeByte cfg d8 rx).Inv cfg := by
  obtain ⟨-, -, hcrc, hbuf⟩ := (Deframer.inv_awaitingHeader hs).1 h
  rw [hc] at hcrc
  have hcrc' : crcByte rx.crc d8 = crc16 (((rx.hdr.set 5 d8).toList.take 6).drop 2) := by
    rw [Header.crc16_covered_set rx.hdr le_rfl d8, hcrc]
    rfl
  exact (Deframer.inv_awaitingLength rfl).2 ⟨Nat.zero_le _, rfl, hcrc', hbuf⟩

theorem Deframer.inv_rxLengthHigh {d8 : Byte} (h : rx.Inv cfg) (hs : rx.state = .awaitingLength)
    (hc : rx.cnt = 0#16) : (rxLengthHigh d8 rx).Inv cfg := by
  obtain ⟨-, hbad, hcrc, hbuf⟩ := (Deframer.inv_awaitingLength hs).1 h
  refine (Deframer.inv_awaitingLength (rx := rxLengthHigh d8 rx) hs).2 ⟨le_rfl, hbad, ?_, hbuf⟩
  simp [rxLengthHigh, u16be, crc16_concat, hcrc, hc]

theorem Deframer.inv_rxLengthLow {d8 : Byte} (h : rx.Inv cfg) (hs : rx.state = .awaitingLength)
    (hc : rx.cnt = 1#16) : (rxLengthLow d8 rx).Inv cfg := by
  obtain ⟨-, hbad, hcrc, hbuf⟩ := (Deframer.inv_awaitingLength hs).1 h
  have hcrc' : crcByte rx.crc d8 = crc16 (rx.hdr.tail ++ u16be (be16 (hiByte rx.len) d8)) := by
    have : rx.hdr.tail ++ [hiByte rx.len, d8] = rx.hdr.tail ++ [hiByte rx.len] ++ [d8] := by simp
    rw [u16be, hiByte_be16, loByte_be16, this, crc16_concat, hcrc, hc]
    rfl
  by_cases hlen : be16 (hiByte rx.len) d8 = 0#16
  · refine (Deframer.inv_awaitingCrc (if_pos hlen)).2 ⟨Nat.zero_le _, hbad, ?_, hbuf⟩
    simpa [rxLengthLow, hlen] using hcrc'
  · refine (Deframer.inv_awaitingBody (if_neg hlen)).2 ⟨toNat_pos_of_ne_zero hlen, hbad, ?_, hbuf⟩
    simpa [rxLengthLow] using hcrc'

theorem Deframer.inv_rxBodyByte {d8 : Byte} (h : rx.Inv cfg) (hs : rx.state = .awaitingBody) :
    (rxBodyByte d8 rx).Inv cfg := by
  obtain ⟨hlt, hbad, hcrc, hbuf⟩ := (Deframer.inv_awaitingBody hs).1 h
  have hbuf' := hbuf.write (lt_bufferSize_of_lt hlt) d8
  have hcrc' : crcByte rx.crc d8 = crc16 (rx.hdr.tail ++ u16be rx.len ++
      (rx.buf.write rx.cnt.toNat d8).firstBytes (rx.cnt.toNat + 1)) := by
    rw [Memory.firstBytes_write _ _ _ hbuf.1, ← List.append_assoc, crc16_concat, hcrc]
  by_cases hlast : rx.cnt.toNat + 1 = rx.len.toNat
  · rw [rxBodyByte, if_pos hlast]
    rw [hlast] at hcrc'
    exact (Deframer.inv_awaitingCrc rfl).2 ⟨Nat.zero_le _, hbad, hcrc', hbuf'⟩
  · rw [rxBodyByte, if_neg hlast]
    have hcnt : (rx.cnt + 1#16).toNat = rx.cnt.toNat + 1 := toNat_add_one (lt_bufferSize_of_lt hlt)
    refine (Deframer.inv_awaitingBody (by exact hs)).2 ⟨?_, hbad, ?_, hbuf'⟩
    · show (rx.cnt + 1#16).toNat < rx.len.toNat
      omega
    · rw [hcnt]
      exact hcrc'

theorem Deframer.inv_rxCrcHigh {d8 : Byte} (h : rx.Inv cfg) (hs : rx.state = .awaitingCrc) :
    (rxCrcHigh d8 rx).Inv cfg := by
  obtain ⟨-, hrest⟩ := (Deframer.inv_awaitingCrc hs).1 h
  exact (Deframer.inv_awaitingCrc (rx := rxCrcHigh d8 rx) hs).2 ⟨le_rfl, hrest⟩

end

/-! ### The whole machine -/

theorem State.inv_reset : State.reset.Inv := ⟨Framer.inv_reset, Deframer.inv_reset⟩

/-- Settles O2: every register of the reset state is a literal. -/
theorem resetMeetsTheInvariant : Obligations.ResetMeetsTheInvariant :=
  ⟨State.inv_reset, rfl, fun _ he => absurd he List.not_mem_nil⟩

theorem txStart_keeps_inv {mtype id : Byte} {len : Half} (hs : s.Inv)
    (h : exec (.txStart mtype id len) s = .next t) : t.Inv := by
  obtain ⟨htx, hrx⟩ := hs
  obtain ⟨-, hx⟩ | ⟨-, -, hx⟩ | ⟨-, -, -, hx⟩ | ⟨-, hid, hlen, hx⟩ := exec_txStart_cases mtype id len s <;>
    cases hx.symm.trans h
  · exact ⟨htx, hrx⟩
  · exact ⟨htx, hrx⟩
  · exact ⟨(Framer.inv_idle rfl).2 ⟨rfl, htx.good⟩, hrx⟩
  · exact ⟨Framer.inv_open hid hlen htx.good, hrx⟩

theorem txData_keeps_inv {d8 : Byte} (hs : s.Inv) (h : exec (.txData d8) s = .next t) : t.Inv := by
  obtain ⟨htx, hrx⟩ := hs
  obtain ⟨-, hx⟩ | ⟨-, -, hx⟩ | ⟨-, h1, h2, hr, hx⟩ | ⟨hb, -, -, hr, hx⟩ := exec_txData_cases d8 s <;>
    cases hx.symm.trans h
  · exact ⟨htx, hrx⟩
  · have hbuf := htx.good.write (lt_bufferSize_of_lt (txIndex_lt_len h1 h2)) d8
    exact ⟨(Framer.inv_idle rfl).2 ⟨by simp [txAfterByte, hr], hbuf⟩, hrx⟩
  · exact ⟨Framer.inv_txAfterByte htx hb hr, hrx⟩

theorem rxByte_keeps_inv {d8 : Byte} (hs : s.Inv) (h : exec (.rxByte d8) s = .next t) : t.Inv := by
  obtain ⟨htx, hrx⟩ := hs
  obtain ⟨hst, hc, hx⟩ | ⟨hst, hc, hx⟩ | ⟨hst, hc, hx⟩ | ⟨hst, hc, hx⟩ | ⟨hst, -, hx⟩ | ⟨hst, -, hx⟩ | ⟨-, -, hx⟩ |
    ⟨-, hx⟩ := exec_rxByte_cases d8 s <;> cases hx.symm.trans h
  · exact ⟨htx, Deframer.inv_rxHeaderByte hrx hst hc⟩
  · exact ⟨htx, Deframer.inv_rxTypeByte hrx hst hc⟩
  · exact ⟨htx, Deframer.inv_rxLengthHigh hrx hst hc⟩
  · exact ⟨htx, Deframer.inv_rxLengthLow hrx hst hc⟩
  · exact ⟨htx, Deframer.inv_rxBodyByte hrx hst⟩
  · exact ⟨htx, Deframer.inv_rxCrcHigh hrx hst⟩
  · exact ⟨htx, Deframer.inv_rxRestart hrx.good⟩

theorem exec_keeps_inv {i : Instr} (hs : s.Inv) (h : exec i s = .next t) : t.Inv := by
  have ⟨htx, hrx⟩ := hs
  cases i with
  | nop | crcInit | crcFeed | crcRead =>
    cases h
    exact hs
  | txStart mtype id len => exact txStart_keeps_inv hs h
  | txData d8 => exact txData_keeps_inv hs h
  | txAbort =>
    cases h
    exact ⟨(Framer.inv_idle rfl).2 ⟨rfl, htx.good⟩, hrx⟩
  | rxByte d8 => exact rxByte_keeps_inv hs h
  | rxFlush =>
    cases h
    exact ⟨htx, Deframer.inv_rxRestart hrx.good⟩
  | regRead sel =>
    obtain ⟨v, -, hx⟩ | ⟨-, hx⟩ := exec_regRead_cases sel s <;> cases hx.symm.trans h
    · exact hs
    · exact hs

theorem step_keeps_inv (hs : s.Inv) (h : step s = .next t) : t.Inv := by
  obtain ⟨-, hx⟩ | ⟨rest, -, hx⟩ | ⟨c, rest, -, hx⟩ | ⟨w, rest, e, -, -, hx⟩ | ⟨w, rest, i, -, -, hx⟩ := step_cases s
  · cases hx.symm.trans h
    exact hs
  · cases hx.symm.trans h
    exact hs
  · cases hx.symm.trans h
    exact ⟨Framer.inv_reset, Deframer.inv_reset⟩
  · cases hx.symm.trans h
    exact hs
  · exact exec_keeps_inv (s := s.setInputs rest) hs (hx.symm.trans h)

/-- Settles O42: each command keeps the invariant, by the case rule it runs. -/
theorem stepKeepsTheInvariant : Obligations.StepKeepsTheInvariant :=
  fun _ _ hs h => step_keeps_inv hs h

end Sys2Proof.Machine
end

section
/-! A step and the commands, run forward: what is answered once the case is known. -/

namespace Sys2Proof.Machine

open Sys2Proof

variable {s : State}

theorem exec_regRead_assigned {sel : Byte} {v : Word} (h : selectedRegister s sel = some v) :
    exec (.regRead sel) s = .next (s.emit (.regValue sel v)) := by
  simp [exec, execRegRead, h]

theorem exec_regRead_unassigned {sel : Byte} (h : selectedRegister s sel = none) :
    exec (.regRead sel) s = .next (s.emit (.cmdError 0x30#8 0x06#8)) := by
  simp only [exec, execRegRead, h]
  rfl

section
variable {mtype id : Byte} {len : Half}

theorem exec_txStart_busy (hb : s.tx.busy = true) :
    exec (.txStart mtype id len) s = .next (s.emit (.cmdError 0x10#8 0x03#8)) := by
  simp only [exec, execTxStart, hb]
  rfl

theorem exec_txStart_badId (hb : s.tx.busy = false) (hid : id = 0#8) :
    exec (.txStart mtype id len) s = .next (s.emit (.cmdError 0x10#8 0x05#8)) := by
  simp only [exec, execTxStart, hb, hid]
  rfl

theorem exec_txStart_empty (hb : s.tx.busy = false) (hid : id ≠ 0#8) (hlen : len = 0#16) :
    exec (.txStart mtype id len) s =
      .next ((s.setTx ⟨false, mtype, id, len, 0#16, crc16 (txPrefix s.cfg mtype id len), s.tx.buf⟩).emit
        (.txFrame (assembleFrame s.cfg mtype id len [] (crc16 (txPrefix s.cfg mtype id len))))) := by
  simp [exec, execTxStart, hb, hid, hlen]

theorem exec_txStart_open (hb : s.tx.busy = false) (hid : id ≠ 0#8) (hlen : len ≠ 0#16) :
    exec (.txStart mtype id len) s =
      .next (s.setTx ⟨true, mtype, id, len, len, crc16 (txPrefix s.cfg mtype id len), s.tx.buf⟩) := by
  simp [exec, execTxStart, hb, hid, hlen]

end

section
variable {d8 : Byte}

theorem exec_txData_idle (hb : s.tx.busy = false) :
    exec (.txData d8) s = .next (s.emit (.cmdError 0x11#8 0x04#8)) := by
  simp only [exec, execTxData, hb]
  rfl

theorem exec_txData_last (hb : s.tx.busy = true) (h : s.tx.rem.toNat ≤ s.tx.len.toNat) (hr : s.tx.rem = 1#16) :
    exec (.txData d8) s = .next ((s.setTx { txAfterByte d8 s.tx with busy := false }).emit
      (.txFrame (assembleFrame s.cfg s.tx.mtype s.tx.id s.tx.len
        (s.tx.buf.firstBytes (txIndex s.tx) ++ [d8]) (crcByte s.tx.crc d8)))) := by
  have h1 : 1 ≤ s.tx.rem.toNat := by rw [hr]; decide
  simp only [exec, execTxData, hb, if_pos (And.intro h1 h), if_pos hr]
  rfl

theorem exec_txData_more (hb : s.tx.busy = true) (h1 : 1 ≤ s.tx.rem.toNat)
    (h2 : s.tx.rem.toNat ≤ s.tx.len.toNat) (hr : s.tx.rem ≠ 1#16) :
    exec (.txData d8) s = .next (s.setTx (txAfterByte d8 s.tx)) := by
  simp [exec, execTxData, txAfterByte, hb, h1, h2, hr]

end

section
variable {rest : List PortInput}

theorem step_noInput (h : s.inputs = []) : step s = .next s := by
  simp [step, takeInput, process, h]

theorem step_noCommand (h : s.inputs = ⟨false, none⟩ :: rest) : step s = .next (s.setInputs rest) := by
  simp [step, takeInput, process, h]

theorem step_reset {c : Option CmdWord} (h : s.inputs = ⟨true, c⟩ :: rest) :
    step s = .next (applyReset (s.setInputs rest)) := by
  simp [step, takeInput, process, h]

theorem step_decodeError {w : CmdWord} {e : DecodeError} (h : s.inputs = ⟨false, some w⟩ :: rest)
    (hd : decode w = .error e) :
    step s = .next ((s.setInputs rest).emit (.cmdError (opField w) (ErrorCause.ofDecode e).code)) := by
  simp [step, takeInput, process, execWord, raiseDecodeError, raiseCmdError, h, hd]

theorem step_command {w : CmdWord} {i : Instr} (h : s.inputs = ⟨false, some w⟩ :: rest)
    (hd : decode w = .ok i) : step s = exec i (s.setInputs rest) := by
  simp [step, takeInput, process, execWord, h, hd]

end

end Sys2Proof.Machine
end

section
/-! The body buffers beyond what the current frame has written are never seen (10_state.md R32): a state's two
buffers are exchanged for others that agree on the written bytes, and every command runs as before. -/

namespace Sys2Proof.Machine

open Sys2Proof

/-! ### Buffers that agree up to an index -/

/-- Two buffers hold the same bytes at the indices below `n`. -/
def Memory.AgreeBelow (n : Nat) (m m' : Memory) : Prop := ∀ a, a < n → m'.read a = m.read a

section
variable {n : Nat} {m m' : Memory}

theorem Memory.agreeBelow_of_eq_zero (hn : n = 0) : Memory.AgreeBelow n m m' :=
  fun a ha => absurd ha (by omega)

theorem Memory.AgreeBelow.firstBytes_eq (h : Memory.AgreeBelow n m m') : m'.firstBytes n = m.firstBytes n :=
  Memory.firstBytes_congr m' m n h

/-- The byte written next is read back from both. -/
theorem Memory.AgreeBelow.write (h : Memory.AgreeBelow n m m') (hm : m.wf = true) (hm' : m'.wf = true) (v : Byte) :
    Memory.AgreeBelow (n + 1) (m.write n v) (m'.write n v) := by
  intro a ha
  by_cases han : a = n
  · rw [han, Memory.read_write_same m n v hm, Memory.read_write_same m' n v hm']
  · rw [Memory.read_write_other m n a v han, Memory.read_write_other m' n a v han]
    exact h a (by omega)

end

/-! ### A state with other buffers -/

/-- The state `s` with `b` and `c` in place of `TX_BUF` and `RX_BUF`. -/
def State.withBufs (s : State) (b c : Memory) : State :=
  (s.setTx { s.tx with buf := b }).setRx { s.rx with buf := c }

/-- `b` and `c` hold the bytes of the current frames of `s`. -/
def State.WrittenIn (s : State) (b c : Memory) : Prop :=
  Memory.AgreeBelow s.tx.written s.tx.buf b ∧ Memory.AgreeBelow s.rx.written s.rx.buf c

theorem sameButUnwritten_iff {s t : State} :
    SameButUnwritten s t ↔ ∃ b c, t = s.withBufs b c ∧ s.WrittenIn b c := by
  constructor
  · rintro ⟨hacc, hcfg, hev, hin, htx, htxb, hrx, hrxb⟩
    refine ⟨t.tx.buf, t.rx.buf, ?_, htxb, hrxb⟩
    have htx' : t.tx = { s.tx with buf := t.tx.buf } := by rw [← htx]
    have hrx' : t.rx = { s.rx with buf := t.rx.buf } := by rw [← hrx]
    calc t = ⟨s.crcAcc, t.tx, t.rx, s.cfg, s.events, s.inputs⟩ := by rw [← hacc, ← hcfg, ← hev, ← hin]
      _ = _ := congrArg₂ (fun x y => State.mk s.crcAcc x y s.cfg s.events s.inputs) htx' hrx'
  · rintro ⟨b, c, rfl, hb, hc⟩
    exact ⟨rfl, rfl, rfl, rfl, rfl, hb, rfl, hc⟩

/-! ### How many bytes of a buffer are written -/

theorem Framer.written_busy {tx : Framer} (hb : tx.busy = true) : tx.written = txIndex tx := if_pos hb

section
variable {rx : Deframer}

theorem Deframer.written_awaitingHeader (hs : rx.state = .awaitingHeader) : rx.written = 0 := by
  simp [Deframer.written, hs]

theorem Deframer.written_awaitingLength (hs : rx.state = .awaitingLength) : rx.written = 0 := by
  simp [Deframer.written, hs]

theorem Deframer.written_awaitingBody (hs : rx.state = .awaitingBody) : rx.written = rx.cnt.toNat := by
  simp [Deframer.written, hs]

theorem Deframer.written_awaitingCrc (hs : rx.state = .awaitingCrc) : rx.written = rx.len.toNat := by
  simp [Deframer.written, hs]

/-- Before the body nothing is written, whether or not there is a body to come. -/
theorem Deframer.written_rxLengthLow (d8 : Byte) (rx : Deframer) : (rxLengthLow d8 rx).written = 0 := by
  by_cases hlen : be16 (hiByte rx.len) d8 = 0#16
  · rw [Deframer.written_awaitingCrc (if_pos hlen)]
    exact congrArg BitVec.toNat hlen
  · exact Deframer.written_awaitingBody (if_neg hlen)

theorem Deframer.written_rxBodyByte (d8 : Byte) (hs : rx.state = .awaitingBody)
    (hc : rx.cnt.toNat < rx.len.toNat) : (rxBodyByte d8 rx).written = rx.cnt.toNat + 1 := by
  by_cases hlast : rx.cnt.toNat + 1 = rx.len.toNat
  · rw [rxBodyByte, if_pos hlast, hlast]
    exact Deframer.written_awaitingCrc rfl
  · rw [rxBodyByte, if_neg hlast, Deframer.written_awaitingBody (by exact hs)]
    exact toNat_add_one (lt_bufferSize_of_lt hc)

end

/-! ### Each command -/

/-- From `s` with the buffers `b` and `c` the command `i` answers `t`, but for bytes not written in a frame of
`t`. -/
def RunsWithBufs (i : Instr) (s : State) (b c : Memory) (t : State) : Prop :=
  ∃ b' c', exec i (s.withBufs b c) = .next (t.withBufs b' c') ∧ t.WrittenIn b' c'

section
variable {s t : State} {b c : Memory}

theorem txStart_runsWithBufs {mtype id : Byte} {len : Half} (hw : s.WrittenIn b c)
    (h : exec (.txStart mtype id len) s = .next t) : RunsWithBufs (.txStart mtype id len) s b c t := by
  have ⟨_, hrx⟩ := hw
  obtain ⟨hb, hx⟩ | ⟨hb, hid, hx⟩ | ⟨hb, hid, hlen, hx⟩ | ⟨hb, hid, hlen, hx⟩ :=
    exec_txStart_cases mtype id len s <;> cases hx.symm.trans h
  · exact ⟨b, c, exec_txStart_busy hb, hw⟩
  · exact ⟨b, c, exec_txStart_badId hb hid, hw⟩
  · exact ⟨b, c, exec_txStart_empty hb hid hlen, Memory.agreeBelow_of_eq_zero rfl, hrx⟩
  · exact ⟨b, c, exec_txStart_open hb hid hlen, Memory.agreeBelow_of_eq_zero (Nat.sub_self _), hrx⟩

theorem txData_runsWithBufs {d8 : Byte} (hm : s.tx.buf.wf = true) (hm' : b.wf = true) (hw : s.WrittenIn b c)
    (h : exec (.txData d8) s = .next t) : RunsWithBufs (.txData d8) s b c t := by
  have ⟨htx, hrx⟩ := hw
  obtain ⟨hb, hx⟩ | ⟨-, -, hx⟩ | ⟨hb, -, h2, hr, hx⟩ | ⟨hb, h1, h2, hr, hx⟩ := exec_txData_cases d8 s <;>
    cases hx.symm.trans h
  · exact ⟨b, c, exec_txData_idle hb, hw⟩
  · rw [Framer.written_busy hb] at htx
    refine ⟨b.write (txIndex s.tx) d8, c, ?_, Memory.agreeBelow_of_eq_zero rfl, hrx⟩
    rw [← htx.firstBytes_eq]
    exact exec_txData_last (s := s.withBufs b c) hb h2 hr
  · rw [Framer.written_busy hb] at htx
    refine ⟨b.write (txIndex s.tx) d8, c, exec_txData_more (s := s.withBufs b c) hb h1 h2 hr, ?_, hrx⟩
    have hwr : (txAfterByte d8 s.tx).written = txIndex s.tx + 1 :=
      (Framer.written_busy (tx := txAfterByte d8 s.tx) hb).trans (txIndex_txAfterByte d8 h1 h2)
    rw [State.setTx_tx, hwr]
    exact htx.write hm hm' d8

/-- R145 stores at `RX_CNT` whatever the buffer holds. -/
theorem rxBodyByte_withBuf (d8 : Byte) (rx : Deframer) (c : Memory) :
    rxBodyByte d8 { rx with buf := c } = { rxBodyByte d8 rx with buf := c.write rx.cnt.toNat d8 } := by
  unfold rxBodyByte
  split_ifs <;> rfl

theorem rxBodyByte_buf (d8 : Byte) (rx : Deframer) :
    (rxBodyByte d8 rx).buf = rx.buf.write rx.cnt.toNat d8 := by
  unfold rxBodyByte
  split_ifs <;> rfl

/-- The completion of R148 reads the body alone. -/
theorem rxCrcLow_withBufs (d8 : Byte) (h : Memory.AgreeBelow s.rx.len.toNat s.rx.buf c) :
    rxCrcLow d8 (s.withBufs b c) = (rxCrcLow d8 s).withBufs b c := by
  unfold rxCrcLow
  rw [← h.firstBytes_eq]
  rfl

theorem rxByte_runsWithBufs {d8 : Byte} (hm : s.rx.buf.wf = true) (hm' : c.wf = true) (hw : s.WrittenIn b c)
    (h : exec (.rxByte d8) s = .next t) : RunsWithBufs (.rxByte d8) s b c t := by
  have ⟨htx, hrx⟩ := hw
  obtain ⟨hst, hc, hx⟩ | ⟨hst, hc, hx⟩ | ⟨hst, hc, hx⟩ | ⟨hst, hc, hx⟩ | ⟨hst, hc, hx⟩ | ⟨hst, hc, hx⟩ |
    ⟨hst, hc, hx⟩ | ⟨-, hx⟩ := exec_rxByte_cases d8 s <;> cases hx.symm.trans h
  · exact ⟨b, c, exec_rxByte_header d8 (s.withBufs b c) hst hc, htx,
      Memory.agreeBelow_of_eq_zero (Deframer.written_awaitingHeader hst)⟩
  · exact ⟨b, c, exec_rxByte_type d8 (s.withBufs b c) hst hc, htx,
      Memory.agreeBelow_of_eq_zero (Deframer.written_awaitingLength rfl)⟩
  · exact ⟨b, c, exec_rxByte_lengthHigh d8 (s.withBufs b c) hst hc, htx,
      Memory.agreeBelow_of_eq_zero (Deframer.written_awaitingLength hst)⟩
  · exact ⟨b, c, exec_rxByte_lengthLow d8 (s.withBufs b c) hst hc, htx,
      Memory.agreeBelow_of_eq_zero (Deframer.written_rxLengthLow d8 s.rx)⟩
  · rw [Deframer.written_awaitingBody hst] at hrx
    refine ⟨b, c.write s.rx.cnt.toNat d8, ?_, htx, ?_⟩
    · rw [exec_rxByte_body d8 (s.withBufs b c) hst hc]
      exact congrArg (fun rx => Host.Outcome.next ((s.withBufs b c).setRx rx)) (rxBodyByte_withBuf d8 s.rx c)
    · rw [State.setRx_rx, Deframer.written_rxBodyByte d8 hst hc, rxBodyByte_buf]
      exact hrx.write hm hm' d8
  · rw [Deframer.written_awaitingCrc hst] at hrx
    refine ⟨b, c, exec_rxByte_crcHigh d8 (s.withBufs b c) hst hc, htx, ?_⟩
    rw [Deframer.written_awaitingCrc (by exact hst)]
    exact hrx
  · rw [Deframer.written_awaitingCrc hst] at hrx
    refine ⟨b, c, ?_, htx, Memory.agreeBelow_of_eq_zero rfl⟩
    rw [exec_rxByte_crcLow d8 (s.withBufs b c) hst hc, rxCrcLow_withBufs d8 hrx]

theorem exec_runsWithBufs {i : Instr} (hs : s.Inv) (hs' : (s.withBufs b c).Inv) (hw : s.WrittenIn b c)
    (h : exec i s = .next t) : RunsWithBufs i s b c t := by
  have ⟨htx, hrx⟩ := hw
  have ⟨htxInv, hrxInv⟩ := hs
  have ⟨htxInv', hrxInv'⟩ := hs'
  cases i with
  | nop | crcInit | crcFeed | crcRead =>
    cases h
    exact ⟨b, c, rfl, hw⟩
  | txStart mtype id len => exact txStart_runsWithBufs hw h
  | txData d8 => exact txData_runsWithBufs htxInv.good.1 htxInv'.good.1 hw h
  | txAbort =>
    cases h
    exact ⟨b, c, rfl, Memory.agreeBelow_of_eq_zero rfl, hrx⟩
  | rxByte d8 => exact rxByte_runsWithBufs hrxInv.good.1 hrxInv'.good.1 hw h
  | rxFlush =>
    cases h
    exact ⟨b, c, rfl, htx, Memory.agreeBelow_of_eq_zero rfl⟩
  | regRead sel =>
    obtain ⟨v, hv, hx⟩ | ⟨hv, hx⟩ := exec_regRead_cases sel s <;> cases hx.symm.trans h
    · exact ⟨b, c, exec_regRead_assigned (s := s.withBufs b c) hv, hw⟩
    · exact ⟨b, c, exec_regRead_unassigned (s := s.withBufs b c) hv, hw⟩

/-! ### A step -/

theorem step_runsWithBufs (hs : s.Inv) (hs' : (s.withBufs b c).Inv) (hw : s.WrittenIn b c) (h : step s = .next t) :
    ∃ b' c', step (s.withBufs b c) = .next (t.withBufs b' c') ∧ t.WrittenIn b' c' := by
  obtain ⟨hi, hx⟩ | ⟨rest, hi, hx⟩ | ⟨_, rest, hi, hx⟩ | ⟨w, rest, e, hi, hd, hx⟩ | ⟨w, rest, i, hi, hd, hx⟩ :=
    step_cases s
  · cases hx.symm.trans h
    exact ⟨b, c, step_noInput (s := s.withBufs b c) hi, hw⟩
  · cases hx.symm.trans h
    exact ⟨b, c, step_noCommand (s := s.withBufs b c) hi, hw⟩
  · cases hx.symm.trans h
    exact ⟨[], [], step_reset (s := s.withBufs b c) hi, fun _ _ => rfl, fun _ _ => rfl⟩
  · cases hx.symm.trans h
    exact ⟨b, c, step_decodeError (s := s.withBufs b c) hi hd, hw⟩
  · obtain ⟨b', c', hexec, hw'⟩ :=
      exec_runsWithBufs (s := s.setInputs rest) hs hs' hw (hx.symm.trans h)
    exact ⟨b', c', (step_command (s := s.withBufs b c) hi hd).trans hexec, hw'⟩

/-- Settles O49: a frame is sent and delivered from the bytes written in it, `REG_READ` reaches no buffer byte,
and the byte a command stores enters both buffers at the same index. -/
theorem unwrittenBufferBytesAreNeverSeen : Obligations.UnwrittenBufferBytesAreNeverSeen := by
  intro s s' t hs hs' hsame h
  obtain ⟨b, c, rfl, hw⟩ := sameButUnwritten_iff.1 hsame
  obtain ⟨b', c', hstep, hw'⟩ := step_runsWithBufs hs hs' hw h
  exact ⟨t.withBufs b' c', hstep, sameButUnwritten_iff.2 ⟨b', c', rfl, hw'⟩⟩

end

end Sys2Proof.Machine
end

section
/-! Runs of commands, reads (20_memory.md R58), and the frame whose last byte has not come (R57). -/

namespace Sys2Proof.Machine

open Sys2Proof

variable {s t : State}

/-! ### Runs of commands -/

theorem execAll_cons_of_next {i : Instr} (rest : List Instr) (h : exec i s = .next t) :
    execAll (i :: rest) s = execAll rest t := by
  simp only [execAll, h]

/-- A run that answers a next state went through one after its first command. -/
theorem execAll_cons_next {i : Instr} {rest : List Instr} (h : execAll (i :: rest) s = .next t) :
    ∃ u, exec i s = .next u ∧ execAll rest u = .next t := by
  cases hi : exec i s with
  | next u => exact ⟨u, rfl, (execAll_cons_of_next rest hi).symm.trans h⟩
  | fault r => simp [execAll, hi] at h
  | refused r => simp [execAll, hi] at h

/-! ### Reads -/

@[simp] theorem selectedRegister_emit (e : Event) (sel : Byte) :
    selectedRegister (s.emit e) sel = selectedRegister s sel := rfl

/-- The event of a read depends on registers alone, so it is the same after an event has been emitted. -/
theorem read_emits_again {i : Instr} (hi : i = .crcRead ∨ ∃ sel, i = .regRead sel) :
    ∃ e, exec i s = .next (s.emit e) ∧ exec i (s.emit e) = .next ((s.emit e).emit e) := by
  obtain rfl | ⟨sel, rfl⟩ := hi
  · exact ⟨.crcValue s.crcAcc, rfl, rfl⟩
  · cases h : selectedRegister s sel with
    | some v => exact ⟨.regValue sel v, exec_regRead_assigned h,
        exec_regRead_assigned ((selectedRegister_emit _ sel).trans h)⟩
    | none => exact ⟨.cmdError 0x30#8 0x06#8, exec_regRead_unassigned h,
        exec_regRead_unassigned ((selectedRegister_emit _ sel).trans h)⟩

/-- Settles O38: a read only emits, and what it emits depends on no event. -/
theorem readsHaveNoSideEffect : Obligations.ReadsHaveNoSideEffect := by
  intro s i hi
  obtain ⟨e, hfirst, hsecond⟩ := read_emits_again (s := s) hi
  refine ⟨e, hfirst, ?_⟩
  rw [execAll_cons_of_next _ hfirst, execAll_cons_of_next _ hsecond]
  simp [execAll, State.emit]

/-! ### An open frame -/

/-- Fewer bytes than an open frame waits for leave it open, count down `TX_REM` and send nothing. -/
theorem execAll_txData_short (bs : List Byte) (hb : s.tx.busy = true) (hr : s.tx.rem.toNat ≤ s.tx.len.toNat)
    (hbs : bs.length < s.tx.rem.toNat) :
    ∃ t, execAll (bs.map .txData) s = .next t ∧
      t.events = s.events ∧ t.tx.busy = true ∧ t.tx.rem.toNat = s.tx.rem.toNat - bs.length := by
  induction bs generalizing s with
  | nil => exact ⟨s, rfl, rfl, hb, rfl⟩
  | cons d8 bs ih =>
    rw [List.length_cons] at hbs
    have hpos : 1 ≤ s.tx.rem.toNat := by omega
    have hne : s.tx.rem ≠ 1#16 := fun e => by
      rw [e, BitVec.toNat_ofNat] at hbs
      omega
    have hrem : (txAfterByte d8 s.tx).rem.toNat = s.tx.rem.toNat - 1 := toNat_sub_one hpos
    obtain ⟨t, hrun, hevents, hbusy, hleft⟩ := ih (s := s.setTx (txAfterByte d8 s.tx)) hb
      (by rw [State.setTx_tx, hrem]; exact (Nat.sub_le _ _).trans hr)
      (by rw [State.setTx_tx, hrem]; omega)
    refine ⟨t, (execAll_cons_of_next _ (exec_txData_more hb hpos hr hne)).trans hrun, hevents, hbusy, ?_⟩
    rw [hleft, State.setTx_tx, hrem, List.length_cons]
    omega

/-- Settles O23: `TX_START` opens the frame with `TX_REM = len`, and by induction on the bytes none of them is
the last. -/
theorem anUnfinishedFrameSendsNothing : Obligations.AnUnfinishedFrameSendsNothing := by
  intro s mtype id len bs hidle hid hbs
  have hlen : len ≠ 0#16 := fun e => by simp [e] at hbs
  have hopen := exec_txStart_open (mtype := mtype) hidle hid hlen
  rw [execAll_cons_of_next _ hopen]
  exact execAll_txData_short bs rfl le_rfl hbs

end Sys2Proof.Machine
end

section
/-! The parts of the engine do not interfere (20_memory.md R61). A command of a part reads and writes the
registers of that part alone, beside the parameters, and emits only events of that part, so it runs alike in
every state with the same registers of the part. -/

namespace Sys2Proof.Machine

open Sys2Proof

variable {s t u : State} {p q : Part} {i : Instr} {o : Option Event}

/-! ### One part of a state -/

/-- `s` with the registers and the buffer of part `p` taken from `t`. -/
def State.withPart (s : State) (p : Part) (t : State) : State :=
  match p with
  | .checksum => s.setCrcAcc t.crcAcc
  | .framer => s.setTx t.tx
  | .deframer => s.setRx t.rx
  | .control => s

@[simp] theorem State.withPart_cfg (s : State) (p : Part) (t : State) : (s.withPart p t).cfg = s.cfg := by
  cases p <;> rfl

@[simp] theorem State.withPart_events (s : State) (p : Part) (t : State) :
    (s.withPart p t).events = s.events := by
  cases p <;> rfl

theorem State.withPart_eq_self (h : SamePart p s t) : s.withPart p t = s := by
  cases p with
  | checksum => exact congrArg s.setCrcAcc (Eq.symm h)
  | framer => exact congrArg s.setTx (Eq.symm h)
  | deframer => exact congrArg s.setRx (Eq.symm h)
  | control => rfl

theorem SamePart.refl (p : Part) (s : State) : SamePart p s s := by
  cases p <;> trivial

theorem SamePart.symm (h : SamePart p s t) : SamePart p t s := by
  cases p with
  | checksum | framer | deframer => exact Eq.symm h
  | control => trivial

theorem SamePart.trans (h : SamePart p s t) (h' : SamePart p t u) : SamePart p s u := by
  cases p with
  | checksum | framer | deframer => exact Eq.trans h h'
  | control => trivial

theorem samePart_withPart (s : State) (p : Part) (t : State) : SamePart p (s.withPart p t) t := by
  cases p <;> trivial

theorem samePart_withPart_other (s t : State) (h : p ≠ q) : SamePart p s (s.withPart q t) := by
  cases q with
  | control => exact SamePart.refl p s
  | checksum | framer | deframer => cases p <;> trivial

/-! ### At most one event, of one part -/

/-- `s` after the event of a command, if it has one. -/
def State.emitOption (s : State) : Option Event → State
  | none => s
  | some e => s.emit e

@[simp] theorem State.emitOption_cfg (s : State) (o : Option Event) : (s.emitOption o).cfg = s.cfg := by
  cases o <;> rfl

@[simp] theorem State.emitOption_events (s : State) (o : Option Event) :
    (s.emitOption o).events = s.events ++ o.toList := by
  cases o with
  | none => exact (List.append_nil _).symm
  | some e => rfl

/-- No part's registers hold the event trace. -/
theorem samePart_emitOption (p : Part) (s : State) (o : Option Event) : SamePart p (s.emitOption o) s := by
  cases o with
  | none => exact SamePart.refl p s
  | some e => cases p <;> trivial

theorem eventsOf_append (p : Part) (es fs : List Event) : eventsOf p (es ++ fs) = eventsOf p es ++ eventsOf p fs :=
  List.filter_append _ _

theorem eventsOf_toList_other (ho : ∀ e ∈ o, e.part = q) (h : p ≠ q) : eventsOf p o.toList = [] := by
  cases o with
  | none => rfl
  | some e => simp [eventsOf, ho e rfl, h.symm]

/-! ### What a part can see of a state -/

/-- The registers of part `p`, the parameters, and the events of part `p` are the same. -/
def SameView (p : Part) (s t : State) : Prop :=
  SamePart p s t ∧ s.cfg = t.cfg ∧ eventsOf p s.events = eventsOf p t.events

theorem SameView.refl (p : Part) (s : State) : SameView p s s := ⟨SamePart.refl p s, rfl, rfl⟩

theorem SameView.trans (h : SameView p s t) (h' : SameView p t u) : SameView p s u := by
  obtain ⟨hpart, hcfg, hevents⟩ := h
  obtain ⟨hpart', hcfg', hevents'⟩ := h'
  exact ⟨hpart.trans hpart', hcfg.trans hcfg', hevents.trans hevents'⟩

/-! ### Each command of the three parts runs alike wherever its part's registers are the same -/

/-- From `s`, `i` writes its part as `t` has it and emits `o`, an event of its part, and it does the same in every
state with the part's registers and the parameters of `s`. -/
structure ActsOnItsPart (i : Instr) (s t : State) (o : Option Event) : Prop where
  event_part : ∀ e ∈ o, e.part = commandPart i
  exec_eq : ∀ u : State, u.cfg = s.cfg →
    exec i (u.withPart (commandPart i) s) = .next ((u.withPart (commandPart i) t).emitOption o)

theorem ActsOnItsPart.of_quiet (h : ∀ u : State, u.cfg = s.cfg →
    exec i (u.withPart (commandPart i) s) = .next (u.withPart (commandPart i) t)) :
    ActsOnItsPart i s t none :=
  ⟨nofun, h⟩

theorem ActsOnItsPart.of_emit {e : Event} (he : e.part = commandPart i) (h : ∀ u : State, u.cfg = s.cfg →
    exec i (u.withPart (commandPart i) s) = .next ((u.withPart (commandPart i) t).emit e)) :
    ActsOnItsPart i s t (some e) :=
  ⟨fun _ hmem => Option.some.inj hmem ▸ he, h⟩

/-- In a state with the part's registers and the parameters of `s`, the command runs as in `s`. -/
theorem ActsOnItsPart.exec_of_samePart (hact : ActsOnItsPart i s t o) (hpart : SamePart (commandPart i) u s)
    (hcfg : u.cfg = s.cfg) : exec i u = .next ((u.withPart (commandPart i) t).emitOption o) := by
  have hu := hact.exec_eq u hcfg
  rwa [State.withPart_eq_self hpart] at hu

theorem ActsOnItsPart.next_eq (hact : ActsOnItsPart i s t o) (h : exec i s = .next t) :
    t = (s.withPart (commandPart i) t).emitOption o :=
  Host.Outcome.next.inj (h.symm.trans (hact.exec_of_samePart (SamePart.refl _ s) rfl))

theorem completionEvent_part (delivers : Bool) (hdr : Header) (len : Half) (body : List Byte)
    (crcRx crcCalc : Half) (ok : Bool) :
    (completionEvent delivers hdr len body crcRx crcCalc ok).part = .deframer := by
  unfold completionEvent
  split_ifs <;> rfl

theorem txStart_actsOnItsPart {mtype id : Byte} {len : Half} (h : exec (.txStart mtype id len) s = .next t) :
    ∃ o, ActsOnItsPart (.txStart mtype id len) s t o := by
  obtain ⟨hb, hx⟩ | ⟨hb, hid, hx⟩ | ⟨hb, hid, hlen, hx⟩ | ⟨hb, hid, hlen, hx⟩ := exec_txStart_cases mtype id len s <;>
    cases hx.symm.trans h
  · exact ⟨_, .of_emit rfl fun u _ => exec_txStart_busy (s := u.setTx s.tx) hb⟩
  · exact ⟨_, .of_emit rfl fun u _ => exec_txStart_badId (s := u.setTx s.tx) hb hid⟩
  · exact ⟨_, .of_emit rfl fun u hu => hu ▸ exec_txStart_empty (s := u.setTx s.tx) hb hid hlen⟩
  · exact ⟨_, .of_quiet fun u hu => hu ▸ exec_txStart_open (s := u.setTx s.tx) hb hid hlen⟩

theorem txData_actsOnItsPart {d8 : Byte} (h : exec (.txData d8) s = .next t) :
    ∃ o, ActsOnItsPart (.txData d8) s t o := by
  obtain ⟨hb, hx⟩ | ⟨-, -, hx⟩ | ⟨hb, -, h2, hr, hx⟩ | ⟨hb, h1, h2, hr, hx⟩ := exec_txData_cases d8 s <;>
    cases hx.symm.trans h
  · exact ⟨_, .of_emit rfl fun u _ => exec_txData_idle (s := u.setTx s.tx) hb⟩
  · refine ⟨_, .of_emit (e := .txFrame (assembleFrame s.cfg s.tx.mtype s.tx.id s.tx.len
      (s.tx.buf.firstBytes (txIndex s.tx) ++ [d8]) (crcByte s.tx.crc d8))) rfl fun u hu => ?_⟩
    rw [← hu]
    exact exec_txData_last (s := u.setTx s.tx) hb h2 hr
  · exact ⟨_, .of_quiet fun u _ => exec_txData_more (s := u.setTx s.tx) hb h1 h2 hr⟩

theorem rxByte_actsOnItsPart {d8 : Byte} (h : exec (.rxByte d8) s = .next t) :
    ∃ o, ActsOnItsPart (.rxByte d8) s t o := by
  obtain ⟨hs, hc, hx⟩ | ⟨hs, hc, hx⟩ | ⟨hs, hc, hx⟩ | ⟨hs, hc, hx⟩ | ⟨hs, hc, hx⟩ | ⟨hs, hc, hx⟩ | ⟨hs, hc, hx⟩ |
    ⟨-, hx⟩ := exec_rxByte_cases d8 s <;> cases hx.symm.trans h
  · exact ⟨_, .of_quiet fun u _ => exec_rxByte_header d8 (u.setRx s.rx) hs hc⟩
  · exact ⟨_, .of_quiet fun u hu => hu ▸ exec_rxByte_type d8 (u.setRx s.rx) hs hc⟩
  · exact ⟨_, .of_quiet fun u _ => exec_rxByte_lengthHigh d8 (u.setRx s.rx) hs hc⟩
  · exact ⟨_, .of_quiet fun u _ => exec_rxByte_lengthLow d8 (u.setRx s.rx) hs hc⟩
  · exact ⟨_, .of_quiet fun u _ => exec_rxByte_body d8 (u.setRx s.rx) hs hc⟩
  · exact ⟨_, .of_quiet fun u _ => exec_rxByte_crcHigh d8 (u.setRx s.rx) hs hc⟩
  · refine ⟨_, .of_emit (completionEvent_part s.cfg.hdrMismatchDelivers s.rx.hdr s.rx.len
      (s.rx.buf.firstBytes s.rx.len.toNat) (be16 s.rx.crcHi d8) s.rx.crc (!s.rx.hdrBad)) fun u hu => ?_⟩
    rw [← hu]
    exact exec_rxByte_crcLow d8 (u.setRx s.rx) hs hc

/-- The control part is left out: `REG_READ` sees the registers of the others. -/
theorem exec_actsOnItsPart (hi : commandPart i ≠ .control) (h : exec i s = .next t) :
    ∃ o, ActsOnItsPart i s t o := by
  cases i with
  | nop | regRead => exact absurd rfl hi
  | crcInit | crcFeed | txAbort | rxFlush =>
    cases h
    exact ⟨_, .of_quiet fun _ _ => rfl⟩
  | crcRead =>
    cases h
    exact ⟨_, .of_emit (e := .crcValue s.crcAcc) rfl fun _ _ => rfl⟩
  | txStart mtype id len => exact txStart_actsOnItsPart h
  | txData d8 => exact txData_actsOnItsPart h
  | rxByte d8 => exact rxByte_actsOnItsPart h

/-! ### A command and the other parts; a command and its own part -/

/-- A command changes its own part and emits its own part's events, and that is all. -/
theorem exec_next_eq_withPart (h : exec i s = .next t) :
    ∃ o, (∀ e ∈ o, e.part = commandPart i) ∧ t = (s.withPart (commandPart i) t).emitOption o := by
  by_cases hi : commandPart i = .control
  · cases i with
    | nop =>
      cases h
      exact ⟨none, nofun, rfl⟩
    | regRead sel =>
      obtain ⟨v, -, hx⟩ | ⟨-, hx⟩ := exec_regRead_cases sel s <;> cases hx.symm.trans h
      · exact ⟨some (.regValue sel v), fun _ hmem => Option.some.inj hmem ▸ rfl, rfl⟩
      · exact ⟨some (.cmdError 0x30#8 0x06#8), fun _ hmem => Option.some.inj hmem ▸ rfl, rfl⟩
    | crcInit | crcFeed | crcRead | txStart | txData | txAbort | rxByte | rxFlush => cases hi
  · obtain ⟨o, hact⟩ := exec_actsOnItsPart hi h
    exact ⟨o, hact.event_part, hact.next_eq h⟩

theorem exec_sameView_other (h : exec i s = .next t) (hp : p ≠ commandPart i) : SameView p s t := by
  obtain ⟨o, ho, ht⟩ := exec_next_eq_withPart h
  rw [ht]
  refine ⟨?_, by simp, ?_⟩
  · exact (samePart_withPart_other s t hp).trans (samePart_emitOption p _ o).symm
  · simp [eventsOf_append, eventsOf_toList_other ho hp]

theorem exec_sameView_own (hi : commandPart i ≠ .control) (hv : SameView (commandPart i) u s)
    (h : exec i s = .next t) : ∃ v, exec i u = .next v ∧ SameView (commandPart i) v t := by
  obtain ⟨hpart, hcfg, hevents⟩ := hv
  obtain ⟨o, hact⟩ := exec_actsOnItsPart hi h
  refine ⟨_, hact.exec_of_samePart hpart hcfg, ?_, ?_, ?_⟩
  · exact (samePart_emitOption _ _ o).trans (samePart_withPart u _ t)
  · rw [hact.next_eq h]
    simpa using hcfg
  · rw [hact.next_eq h]
    simp [eventsOf_append, hevents]

/-! ### Runs -/

/-- A run and the run of one part's own commands, from states this part cannot tell apart. -/
theorem execAll_filter_sameView (hp : p ≠ .control) (is : List Instr) (hv : SameView p u s)
    (h : execAll is s = .next t) :
    ∃ v, execAll (is.filter (fun i => decide (commandPart i = p))) u = .next v ∧ SameView p v t := by
  induction is generalizing s u with
  | nil =>
    cases h
    exact ⟨u, rfl, hv⟩
  | cons i is ih =>
    obtain ⟨s', hi, hrest⟩ := execAll_cons_next h
    by_cases hip : commandPart i = p
    · subst hip
      obtain ⟨u', hu, hv'⟩ := exec_sameView_own hp hv hi
      obtain ⟨v, hrun, hvt⟩ := ih hv' hrest
      rw [List.filter_cons_of_pos (by simp)]
      exact ⟨v, (execAll_cons_of_next _ hu).trans hrun, hvt⟩
    · rw [List.filter_cons_of_neg (by simpa using hip)]
      exact ih (hv.trans (exec_sameView_other hi (Ne.symm hip))) hrest

/-- Settles O48: a command keeps every other part's view, and acts on its own part by that part's view alone, so
by induction on the commands each part's view is that of its own commands' run. -/
theorem partsDoNotInterfere : Obligations.PartsDoNotInterfere := by
  refine ⟨fun i s t p h hp => ?_, fun p is s t hp h => ?_⟩
  · obtain ⟨hpart, -, -⟩ := exec_sameView_other h hp
    exact hpart
  · obtain ⟨u, hrun, hpart, -, hevents⟩ := execAll_filter_sameView hp is (SameView.refl p s) h
    exact ⟨u, hrun, hpart, hevents⟩

end Sys2Proof.Machine
end

section
/-! Encoding and decoding are inverse to each other (30_encoding.md R80 to R84). -/

namespace Sys2Proof

variable {m : Mnemonic} {w : CmdWord}

/-! ### The words of forms `B` and `S`, field by field -/

/-- The zero extension of the operand fills the 24 bits that form `B` reserves (R81). -/
theorem op_append_setWidth (op d8 : Byte) : (op ++ d8.setWidth 32 : CmdWord) = (op ++ 0#24) ++ d8 := by
  have hd8 : d8.setWidth 32 = 0#24 ++ d8 := (BitVec.setWidth_eq_append (by decide)).trans rfl
  rw [hd8, BitVec.append_assoc]
  rfl

theorem op_append_start (op mtype id : Byte) (len : Half) :
    (op ++ ((mtype ++ id) ++ len) : CmdWord) = ((op ++ mtype) ++ id) ++ len := by
  simp only [BitVec.append_assoc, BitVec.cast_eq]

theorem fields_of_op_d8 (op d8 : Byte) :
    reservedField (op ++ d8.setWidth 32) = 0#24 ∧ d8Field (op ++ d8.setWidth 32) = d8 := by
  rw [op_append_setWidth]
  exact (fields_of_op_reserved_d8 op 0#24 d8).2

theorem op_append_d8Field (hz : reservedField w = 0#24) : opField w ++ (d8Field w).setWidth 32 = w := by
  rw [op_append_setWidth, ← hz]
  exact word_eq_op_reserved_d8 w

/-! ### Decode of encode -/

theorem opField_encode (i : Instr) : opField (encode i) = i.mnemonic.op := Laws.opField_append _ _

/-- An encoder sets no reserved bit (R85). -/
theorem reservedZero_encode (i : Instr) : i.mnemonic.ReservedZero (encode i) := by
  cases i with
  | nop | crcInit | crcRead | txAbort | rxFlush => exact (fields_of_op_arg _ 0#32).2
  | crcFeed d8 | txData d8 | rxByte d8 | regRead d8 => exact (fields_of_op_d8 _ d8).1
  | txStart => trivial

/-- The operands stand in the fields of R81. -/
theorem withOperandsOf_encode (i : Instr) : i.mnemonic.withOperandsOf (encode i) = i := by
  cases i with
  | nop | crcInit | crcRead | txAbort | rxFlush => rfl
  | crcFeed d8 => exact congrArg Instr.crcFeed (fields_of_op_d8 _ d8).2
  | txData d8 => exact congrArg Instr.txData (fields_of_op_d8 _ d8).2
  | rxByte d8 => exact congrArg Instr.rxByte (fields_of_op_d8 _ d8).2
  | regRead sel => exact congrArg Instr.regRead (fields_of_op_d8 _ sel).2
  | txStart mtype id len =>
    obtain ⟨-, htype, hid, hlen⟩ := fields_of_op_start Mnemonic.txStart.op mtype id len
    rw [← op_append_start] at htype hid hlen
    exact congr (congr (congrArg Instr.txStart htype) hid) hlen

theorem decode_encode (i : Instr) : decode (encode i) = .ok i :=
  (decode_eq_ok_iff _ _).2
    ⟨i.mnemonic, (opField_encode i).symm, reservedZero_encode i, withOperandsOf_encode i⟩

/-- Settles O5: a command's word has its opcode, no reserved bit set and its operands in their fields, so the
decoder reads the command back; the columns of R82 test the first two. -/
theorem decodeOfEncode : Obligations.DecodeOfEncode := fun i _ =>
  ⟨decode_encode i, (mask_match_iff _ _ (opField_encode i)).2 (reservedZero_encode i)⟩

/-! ### Encode of decode -/

/-- A word with a mnemonic's opcode and no reserved bit set is the word of the command it holds. -/
theorem encode_withOperandsOf (hop : m.op = opField w) (hz : m.ReservedZero w) :
    encode (m.withOperandsOf w) = w := by
  cases m with
  | nop | crcInit | crcRead | txAbort | rxFlush =>
    calc _ = opField w ++ 0#32 := congrArg (· ++ 0#32) hop
      _ = opField w ++ argField w := congrArg (opField w ++ ·) hz.symm
      _ = w := word_eq_op_arg w
  | crcFeed | txData | rxByte | regRead =>
    calc _ = opField w ++ (d8Field w).setWidth 32 := congrArg (· ++ (d8Field w).setWidth 32) hop
      _ = w := op_append_d8Field hz
  | txStart =>
    calc _ = opField w ++ ((typeField w ++ idField w) ++ lenField w) :=
          congrArg (· ++ ((typeField w ++ idField w) ++ lenField w)) hop
      _ = ((opField w ++ typeField w) ++ idField w) ++ lenField w := op_append_start _ _ _ _
      _ = w := word_eq_op_start w

/-- Settles O6: the opcode and the operand fields of a word the decoder takes are all of the word, for its other
bits are zero. -/
theorem encodeOfDecode : Obligations.EncodeOfDecode := by
  intro w i h
  obtain ⟨m, hop, hz, rfl⟩ := (decode_eq_ok_iff w i).1 h
  exact encode_withOperandsOf hop hz

end Sys2Proof
end

section
/-! A step on one word: the command it decodes to, or the decoding error it raises (30_encoding.md R83, R84). -/

namespace Sys2Proof

variable {op : Byte} {w : CmdWord}

/-! ### The opcodes of the mnemonics (R82) -/

/-- The mnemonics in the order of R82. -/
def Mnemonic.all : List Mnemonic :=
  [.nop, .crcInit, .crcFeed, .crcRead, .txStart, .txData, .txAbort, .rxByte, .rxFlush, .regRead]

theorem Mnemonic.mem_all (m : Mnemonic) : m ∈ Mnemonic.all := by cases m <;> decide

theorem mem_assignedOps_iff : op ∈ Machine.assignedOps ↔ ∃ m : Mnemonic, m.op = op := by
  have hops : Machine.assignedOps = Mnemonic.all.map Mnemonic.op := rfl
  simp only [hops, List.mem_map, Mnemonic.mem_all, true_and]

/-- The opcodes whose form is `f`. -/
def opsOfForm (f : OperandForm) : List Byte :=
  (Mnemonic.all.filter (fun m => decide (m.form = f))).map Mnemonic.op

theorem mem_opsOfForm_iff {f : OperandForm} : op ∈ opsOfForm f ↔ ∃ m : Mnemonic, m.form = f ∧ m.op = op := by
  simp only [opsOfForm, List.mem_map, List.mem_filter, Mnemonic.mem_all, decide_eq_true_eq, true_and]

/-! ### The reserved argument bits (R81) -/

theorem not_reservedZero_iff {m : Mnemonic} :
    ¬m.ReservedZero w ↔ (m.form = .none ∧ argField w ≠ 0#32) ∨ (m.form = .byte ∧ reservedField w ≠ 0#24) := by
  unfold Mnemonic.ReservedZero
  cases m.form <;> simp

/-- A bit is set that the opcode's form reserves, in the words of R84, when the mnemonic with that opcode finds
its reserved bits not zero. -/
theorem reservedBitSet_iff :
    (opField w ∈ opsOfForm .none ∧ argField w ≠ 0#32) ∨ (opField w ∈ opsOfForm .byte ∧ reservedField w ≠ 0#24) ↔
      ∃ m : Mnemonic, m.op = opField w ∧ ¬m.ReservedZero w := by
  simp only [mem_opsOfForm_iff, not_reservedZero_iff]
  constructor
  · rintro (⟨⟨m, hf, hop⟩, hz⟩ | ⟨⟨m, hf, hop⟩, hz⟩)
    · exact ⟨m, hop, .inl ⟨hf, hz⟩⟩
    · exact ⟨m, hop, .inr ⟨hf, hz⟩⟩
  · rintro ⟨m, hop, ⟨hf, hz⟩ | ⟨hf, hz⟩⟩
    · exact .inl ⟨⟨m, hf, hop⟩, hz⟩
    · exact .inr ⟨⟨m, hf, hop⟩, hz⟩

/-! ### The three answers of the decoder (R83) -/

theorem decode_of_unassigned (h : opField w ∉ Machine.assignedOps) : decode w = .error .illegalOpcode :=
  (decode_eq_error_iff w _).2 (.inl ⟨fun m hop => h (mem_assignedOps_iff.2 ⟨m, hop⟩), rfl⟩)

theorem decode_of_reservedBitSet (h : ∃ m : Mnemonic, m.op = opField w ∧ ¬m.ReservedZero w) :
    decode w = .error .reservedBits :=
  (decode_eq_error_iff w _).2 (.inr ⟨h, rfl⟩)

theorem decode_of_assigned (h : opField w ∈ Machine.assignedOps)
    (hz : ¬∃ m : Mnemonic, m.op = opField w ∧ ¬m.ReservedZero w) :
    ∃ i, decode w = .ok i ∧ i.mnemonic.op = opField w := by
  obtain ⟨m, hop⟩ := mem_assignedOps_iff.1 h
  have hm : m.ReservedZero w := of_not_not fun hn => hz ⟨m, hop, hn⟩
  have hi : decode w = .ok (m.withOperandsOf w) := (decode_eq_ok_iff w _).2 ⟨m, hop, hm, rfl⟩
  exact ⟨_, hi, by rw [← opField_encode, encodeOfDecode w _ hi]⟩

end Sys2Proof

namespace Sys2Proof.Machine

open Sys2Proof

/-- Settles O4: the decoder's three answers, by the opcode and the bits its form reserves, and the step that
follows each. -/
theorem wordsDecodeOrRaiseTheirError : Obligations.WordsDecodeOrRaiseTheirError := by
  intro s w rest hin op reservedBitSet
  have hreserved : reservedBitSet ↔ ∃ m : Mnemonic, m.op = opField w ∧ ¬m.ReservedZero w := reservedBitSet_iff
  refine ⟨fun hop => ?_, fun hbit => ?_, fun hop hbit => ?_⟩
  · exact step_decodeError hin (decode_of_unassigned hop)
  · exact step_decodeError hin (decode_of_reservedBitSet (hreserved.1 hbit))
  · obtain ⟨i, hi, hiop⟩ := decode_of_assigned hop (mt hreserved.2 hbit)
    exact ⟨i, hi, hiop, step_command hin hi⟩

/-- Settles O3: the rules of a step on a command, on no command and on no input. -/
theorem stepRunsTheDecodedCommand : Obligations.StepRunsTheDecodedCommand :=
  ⟨fun _ _ _ _ => step_command, fun _ _ => step_noCommand, fun _ => step_noInput⟩

end Sys2Proof.Machine
end

section
/-! Written commands (30_encoding.md R85) and the pseudo-instructions (R86): both go through the command that a
written command stands for. -/

namespace Sys2Proof.Machine

open Sys2Proof

/-! ### What the operands of a well-formed written command are (R81) -/

section
variable {m : Mnemonic} {operands : List Nat}

theorem wellFormed_formN (hm : m.form = .none) (h : (SourceInstr.mk m operands).wellFormed = true) :
    operands = [] := by
  simp only [SourceInstr.wellFormed, hm] at h
  split at h
  · rfl
  all_goals contradiction

theorem wellFormed_formB (hm : m.form = .byte) (h : (SourceInstr.mk m operands).wellFormed = true) :
    ∃ d : Byte, operands = [d.toNat] := by
  simp only [SourceInstr.wellFormed, hm] at h
  split at h
  case h_2 d _ => exact ⟨BitVec.ofNatLT d (of_decide_eq_true h), rfl⟩
  all_goals contradiction

theorem wellFormed_formS (hm : m.form = .start) (h : (SourceInstr.mk m operands).wellFormed = true) :
    ∃ (mtype id : Byte) (len : Half), operands = [mtype.toNat, id.toNat, len.toNat] := by
  simp only [SourceInstr.wellFormed, hm] at h
  split at h
  case h_3 mtype id len _ =>
    simp only [Bool.and_eq_true, decide_eq_true_eq] at h
    obtain ⟨⟨htype, hid⟩, hlen⟩ := h
    exact ⟨BitVec.ofNatLT mtype htype, BitVec.ofNatLT id hid, BitVec.ofNatLT len hlen, rfl⟩
  all_goals contradiction

end

/-! ### The command a written command stands for (R85) -/

/-- A written command whose operands fit is what some command writes out as. -/
theorem exists_source_eq {src : SourceInstr} (h : src.wellFormed = true) : ∃ i : Instr, i.source = src := by
  obtain ⟨m, operands⟩ := src
  cases m with
  | nop => exact ⟨.nop, by rw [wellFormed_formN rfl h]; rfl⟩
  | crcInit => exact ⟨.crcInit, by rw [wellFormed_formN rfl h]; rfl⟩
  | crcRead => exact ⟨.crcRead, by rw [wellFormed_formN rfl h]; rfl⟩
  | txAbort => exact ⟨.txAbort, by rw [wellFormed_formN rfl h]; rfl⟩
  | rxFlush => exact ⟨.rxFlush, by rw [wellFormed_formN rfl h]; rfl⟩
  | crcFeed =>
    obtain ⟨d8, rfl⟩ := wellFormed_formB rfl h
    exact ⟨.crcFeed d8, rfl⟩
  | txData =>
    obtain ⟨d8, rfl⟩ := wellFormed_formB rfl h
    exact ⟨.txData d8, rfl⟩
  | rxByte =>
    obtain ⟨d8, rfl⟩ := wellFormed_formB rfl h
    exact ⟨.rxByte d8, rfl⟩
  | regRead =>
    obtain ⟨sel, rfl⟩ := wellFormed_formB rfl h
    exact ⟨.regRead sel, rfl⟩
  | txStart =>
    obtain ⟨mtype, id, len, rfl⟩ := wellFormed_formS rfl h
    exact ⟨.txStart mtype id len, rfl⟩

theorem source_wellFormed (i : Instr) : i.source.wellFormed = true := by
  cases i with
  | nop | crcInit | crcRead | txAbort | rxFlush => rfl
  | crcFeed d8 | txData d8 | rxByte d8 | regRead d8 => exact decide_eq_true d8.isLt
  | txStart mtype id len => exact (Laws.OpcodeInPlace.txStart mtype id len).2

/-- An operand fits its field, so its number gives it back. -/
@[simp] theorem toInstr_source (i : Instr) : toInstr i.source = some i := by
  unfold toInstr
  rw [if_pos (source_wellFormed i)]
  cases i with
  | nop | crcInit | crcRead | txAbort | rxFlush => rfl
  | crcFeed | txData | rxByte | regRead | txStart => simp [Instr.source]

theorem toInstr_illFormed {src : SourceInstr} (h : src.wellFormed = false) : toInstr src = none :=
  if_neg (ne_true_of_eq_false h)

theorem toInstrs_cons_none {src : SourceInstr} (rest : List SourceInstr) (h : toInstr src = none) :
    toInstrs (src :: rest) = none := by
  simp [toInstrs, h]

theorem toInstrs_map_source (is : List Instr) : toInstrs (is.map Instr.source) = some is := by
  induction is with
  | nil => rfl
  | cons i is ih => simp [toInstrs, ih]

/-- Settles O8: a well-formed written command is the source of a command, which it stands for; an ill-formed one
stands for none. -/
theorem writtenCommandsAssembleOrErr : Obligations.WrittenCommandsAssembleOrErr := by
  refine fun src => ⟨fun h => ?_, fun h => ?_⟩
  · obtain ⟨i, rfl⟩ := exists_source_eq h
    exact ⟨i, rfl, congrArg (Option.map (List.map encode)) (toInstrs_map_source [i]), decode_encode i⟩
  · exact congrArg (Option.map (List.map encode)) (toInstrs_cons_none [] (toInstr_illFormed h))

/-! ### The pseudo-instructions (R86) -/

/-- A statement stands for the commands whose written forms it expands to. -/
theorem commands_of_expand {s : Statement} {is : List Instr} (h : s.expand = is.map Instr.source) :
    s.commands = some is :=
  (congrArg toInstrs h).trans (toInstrs_map_source is)

section
variable (bs : List Byte) (mtype id : Byte)

theorem expand_crcBlock :
    (Statement.crcBlock (bs.map BitVec.toNat)).expand =
      (Instr.crcInit :: bs.map Instr.crcFeed).map Instr.source := by
  simp [Statement.expand, Instr.source]

theorem expand_crcOf : (Statement.crcOf (bs.map BitVec.toNat)).expand = (crcOf bs).map Instr.source := by
  simp [Statement.expand, crcOf, Instr.source]

theorem expand_rxStream : (Statement.rxStream (bs.map BitVec.toNat)).expand = (rxStream bs).map Instr.source := by
  simp [Statement.expand, rxStream, Instr.source]

theorem expand_txFrame (hlen : bs.length ≤ 65535) :
    (Statement.txFrame mtype.toNat id.toNat (bs.map BitVec.toNat)).expand =
      (txFrame mtype id bs).map Instr.source := by
  have hfits : bs.length % 65536 = bs.length := Nat.mod_eq_of_lt (by omega)
  simp [Statement.expand, txFrame, Instr.source, hfits]

/-- The length of a longer body does not fit the field of `TX_START`. -/
theorem commands_txFrame_tooLong (hlen : 65535 < bs.length) :
    (Statement.txFrame mtype.toNat id.toNat (bs.map BitVec.toNat)).commands = none := by
  refine toInstrs_cons_none _ (toInstr_illFormed ?_)
  have hbound : ¬bs.length < 65536 := by omega
  simp [SourceInstr.wellFormed, Mnemonic.form, hbound]

end

/-- Settles O9: each expansion of R86 on bytes is the written form of its commands, but for a `TX_FRAME` whose
length does not fit. -/
theorem pseudoInstructionsExpand : Obligations.PseudoInstructionsExpand := fun bs mtype id =>
  ⟨commands_of_expand (expand_crcBlock bs), commands_of_expand (expand_crcOf bs),
    fun hlen => commands_of_expand (expand_txFrame bs mtype id hlen), commands_txFrame_tooLong bs mtype id,
    commands_of_expand (expand_rxStream bs), commands_of_expand (is := [.regRead 0x00#8]) rfl⟩

end Sys2Proof.Machine
end

section
/-! The CRC function (40_crc.md R100 to R103). One iteration is linear over XOR and maps only zero to zero, so
every step of the CRC is linear and loses nothing: neither the running value nor the byte. -/

namespace Sys2Proof.Machine

open Sys2Proof

/-! ### One iteration -/

theorem crcBit_of_bit {c : Half} (h : c.getLsbD 0 = true) : crcBit c = (c >>> 1) ^^^ crcPolynomial := if_pos h

theorem crcBit_of_not_bit {c : Half} (h : c.getLsbD 0 = false) : crcBit c = c >>> 1 :=
  if_neg (ne_true_of_eq_false h)

/-- The model tests bit 0; R100's mask test is the same test. -/
theorem and_one_eq_one_iff (c : Half) : c &&& 1#16 = 1#16 ↔ c.getLsbD 0 = true := by
  rw [BitVec.and_one_eq_setWidth_ofBool_getLsbD]
  cases c.getLsbD 0 <;> decide

theorem crcBit_eq_ite (c : Half) :
    crcBit c = if c &&& 1#16 = 1#16 then (c >>> 1) ^^^ 0xA001#16 else c >>> 1 := by
  simp only [and_one_eq_one_iff, crcBit, crcPolynomial]

theorem crcBit_xor (a b : Half) : crcBit (a ^^^ b) = crcBit a ^^^ crcBit b := by
  have hbit : (a ^^^ b).getLsbD 0 = (a.getLsbD 0 ^^ b.getLsbD 0) := BitVec.getLsbD_xor
  cases ha : a.getLsbD 0 <;> cases hb : b.getLsbD 0 <;> rw [ha, hb] at hbit
  · rw [crcBit_of_not_bit hbit, crcBit_of_not_bit ha, crcBit_of_not_bit hb, BitVec.ushiftRight_xor_distrib]
  · rw [crcBit_of_bit hbit, crcBit_of_not_bit ha, crcBit_of_bit hb, BitVec.ushiftRight_xor_distrib,
      BitVec.xor_assoc]
  · rw [crcBit_of_bit hbit, crcBit_of_bit ha, crcBit_of_not_bit hb, BitVec.ushiftRight_xor_distrib]
    ac_rfl
  · have hcancel : crcPolynomial ^^^ (b >>> 1 ^^^ crcPolynomial) = b >>> 1 := by
      rw [BitVec.xor_comm, BitVec.xor_assoc, BitVec.xor_self, BitVec.xor_zero]
    rw [crcBit_of_not_bit hbit, crcBit_of_bit ha, crcBit_of_bit hb, BitVec.ushiftRight_xor_distrib,
      BitVec.xor_assoc, hcancel]

/-- The shift frees bit 15 and the polynomial sets it, so bit 0 is not lost but moved there. -/
theorem crcBit_bit15 (c : Half) : (crcBit c).getLsbD 15 = c.getLsbD 0 := by
  have hshift : (c >>> 1).getLsbD 15 = false := by simp
  cases h : c.getLsbD 0 with
  | true => rw [crcBit_of_bit h, BitVec.getLsbD_xor, hshift]; rfl
  | false => rw [crcBit_of_not_bit h, hshift]

theorem crcBit_eq_zero {c : Half} (h : crcBit c = 0#16) : c = 0#16 := by
  have hbit : c.getLsbD 0 = false := by rw [← crcBit_bit15, h]; rfl
  rw [crcBit_of_not_bit hbit] at h
  refine BitVec.eq_of_getLsbD_eq fun i _ => ?_
  cases i with
  | zero => exact hbit
  | succ i =>
    have hi : (c >>> 1).getLsbD i = (0#16).getLsbD i := by rw [h]
    simpa [Nat.add_comm 1 i] using hi

theorem crcBit_injective : Function.Injective crcBit := fun a b h => by
  have hzero : crcBit (a ^^^ b) = 0#16 := by rw [crcBit_xor, h, BitVec.xor_self]
  exact BitVec.xor_eq_zero_iff.1 (crcBit_eq_zero hzero)

/-! ### The iterations -/

theorem crcBits_eq_iterate (n : Nat) : crcBits n = crcBit^[n] := by
  induction n with
  | zero => rfl
  | succ n ih => funext c; exact congrFun ih (crcBit c)

theorem crcBits_eq_foldl_range (n : Nat) (c : Half) :
    crcBits n c = (List.range n).foldl (fun c _ => crcBit c) c := by
  rw [List.foldl_const, List.length_range, crcBits_eq_iterate]

theorem crcBits_xor (n : Nat) (a b : Half) : crcBits n (a ^^^ b) = crcBits n a ^^^ crcBits n b := by
  induction n generalizing a b with
  | zero => rfl
  | succ n ih => simp only [crcBits, crcBit_xor, ih]

theorem crcBits_injective (n : Nat) : Function.Injective (crcBits n) := by
  rw [crcBits_eq_iterate]
  exact crcBit_injective.iterate n

/-! ### The step for one byte -/

/-- Settles O11: the XOR with the byte, its zero extension and each of the eight iterations are linear. -/
theorem crcByteIsXorLinear : Obligations.CrcByteIsXorLinear := fun a b x y => by
  have hinput : (a ^^^ b) ^^^ (x ^^^ y).setWidth 16 = (a ^^^ x.setWidth 16) ^^^ (b ^^^ y.setWidth 16) := by
    rw [BitVec.setWidth_xor]
    ac_rfl
  rw [crcByte, hinput, crcBits_xor]
  rfl

/-- Settles O10: the model's eight iterations are R100's, with bit 0 tested by its mask. -/
theorem crcByteIsEightShiftXorSteps : Obligations.CrcByteIsEightShiftXorSteps := fun c d => by
  simp only [← crcBit_eq_ite]
  exact crcBits_eq_foldl_range 8 _

theorem crcByte_injective_value (d : Byte) : Function.Injective (crcByte · d) := fun _ _ h =>
  (BitVec.xor_left_inj _).1 (crcBits_injective 8 h)

theorem crcByte_injective_byte (c : Half) : Function.Injective (crcByte c) := fun x y h => by
  have hwide : x.setWidth 16 = y.setWidth 16 := (BitVec.xor_right_inj _).1 (crcBits_injective 8 h)
  simpa using congrArg (BitVec.setWidth 8) hwide

/-! ### The CRC of a byte sequence -/

theorem crcFold_append (c : Half) (a b : List Byte) : crcFold c (a ++ b) = crcFold (crcFold c a) b :=
  List.foldl_append

theorem crc16_append (a b : List Byte) : crc16 (a ++ b) = crcFold (crc16 a) b := crcFold_append _ a b

/-- Different running values stay different, whatever bytes follow. -/
theorem crcFold_injective (bs : List Byte) : Function.Injective (crcFold · bs) := by
  induction bs with
  | nil => exact Function.injective_id
  | cons d bs ih => exact ih.comp (crcByte_injective_value d)

/-- Settles O13: a CRC is a left fold. -/
theorem crcContinuesAcrossAppend : Obligations.CrcContinuesAcrossAppend := ⟨rfl, crc16_append⟩

/-- Settles O12: the two running values part at the changed byte, and no later byte brings them together. -/
theorem crcDetectsOneChangedByte : Obligations.CrcDetectsOneChangedByte := fun before after x y hxy h => by
  rw [crc16_append, crc16_append, crcFold_cons, crcFold_cons] at h
  exact hxy (crcByte_injective_byte _ (crcFold_injective after h))

end Sys2Proof.Machine
end

section
/-! The commands of the checksum engine (40_crc.md R104 to R106, R108), and what they and the control commands
leave unchanged. -/

namespace Sys2Proof.Machine

open Sys2Proof

variable {s t : State}

/-! ### What the commands of the checksum engine do -/

/-- Settles O15: the word is the command's encoding, and the command only sets `CRC_ACC`. -/
theorem crcInitStartsANewCrc : Obligations.CrcInitStartsANewCrc := ⟨decode_encode .crcInit, exec_crcInit⟩

/-- Settles O16: the words are the command's encodings, and the command only steps `CRC_ACC`. -/
theorem crcFeedAddsOneByte : Obligations.CrcFeedAddsOneByte := by
  refine ⟨fun d8 => ?_, fun s d8 => exec_crcFeed d8 s, by decide, by decide⟩
  rw [← op_append_setWidth]
  exact decode_encode (.crcFeed d8)

/-- Settles O17: the word is the command's encoding, and the command only emits. -/
theorem crcReadReportsTheAccumulator : Obligations.CrcReadReportsTheAccumulator := by
  refine ⟨decode_encode .crcRead, exec_crcRead, fun s => ?_⟩
  rw [execAll_cons_of_next _ (exec_crcInit s), execAll_cons_of_next _ (exec_crcRead _)]
  rfl

/-- A run of `CRC_FEED` folds its bytes into `CRC_ACC` (R103) and does nothing else. -/
theorem execAll_crcFeed_append (bs : List Byte) (rest : List Instr) (s : State) :
    execAll (bs.map .crcFeed ++ rest) s = execAll rest (s.setCrcAcc (crcFold s.crcAcc bs)) := by
  induction bs generalizing s with
  | nil => rfl
  | cons d8 bs ih => exact (execAll_cons_of_next _ (exec_crcFeed d8 s)).trans (ih _)

/-- Settles O18: `CRC_INIT` makes the fold start at the CRC's initial value, whatever `CRC_ACC` was. -/
theorem crcOfReportsTheCrcOfItsBytes : Obligations.CrcOfReportsTheCrcOfItsBytes := fun s bs => by
  rw [crcOf, execAll_cons_of_next _ (exec_crcInit s), execAll_crcFeed_append,
    execAll_cons_of_next _ (exec_crcRead _)]
  rfl

/-! ### What they and the control commands leave unchanged -/

theorem SameFramer.of_samePart (h : SamePart .framer s t) : SameFramer s t := by
  have htx : t.tx = s.tx := Eq.symm h
  simp [SameFramer, htx]

theorem SameDeframer.of_samePart (h : SamePart .deframer s t) : SameDeframer s t := by
  have hrx : t.rx = s.rx := Eq.symm h
  simp [SameDeframer, hrx]

theorem exec_samePart_other {i : Instr} {p : Part} (h : exec i s = .next t) (hp : p ≠ commandPart i) :
    SamePart p s t :=
  (exec_sameView_other h hp).1

/-- Of the commands of the checksum engine only `CRC_READ` does not write `CRC_ACC`. -/
theorem eq_crcRead_of_keeps_crcAcc {i : Instr} (hi : commandPart i = .checksum) (hinit : i ≠ .crcInit)
    (hfeed : ∀ d8, i ≠ .crcFeed d8) : i = .crcRead := by
  cases i with
  | crcRead => rfl
  | crcInit => exact absurd rfl hinit
  | crcFeed d8 => exact absurd rfl (hfeed d8)
  | nop | txStart | txData | txAbort | rxByte | rxFlush | regRead => cases hi

/-- Settles O39: a command writes its own part alone, and within the checksum engine `CRC_READ` only emits. -/
theorem checksumAndControlCommandsFrame : Obligations.ChecksumAndControlCommandsFrame := by
  intro s t i hi h
  have hframer : Part.framer ≠ commandPart i := by rcases hi with hi | hi <;> simp [hi]
  have hdeframer : Part.deframer ≠ commandPart i := by rcases hi with hi | hi <;> simp [hi]
  refine ⟨.of_samePart (exec_samePart_other h hframer), .of_samePart (exec_samePart_other h hdeframer),
    (exec_atMostOneEvent h).2, fun hinit hfeed => ?_⟩
  rcases hi with hi | hi
  · cases eq_crcRead_of_keeps_crcAcc hi hinit hfeed
    cases h
    rfl
  · exact Eq.symm (exec_samePart_other (p := .checksum) h (by simp [hi]))

end Sys2Proof.Machine
end

section
/-! The frame the framer builds (41_framer.md R120). -/

namespace Sys2Proof.Machine

open Sys2Proof

variable {cfg : Config} {mtype id : Byte} {len : Half} {body : List Byte}

theorem toNat_ofNat_length (h : body.length ≤ 65535) : (BitVec.ofNat 16 body.length).toNat = body.length :=
  Nat.mod_eq_of_lt (Nat.lt_succ_of_le h)

theorem ofNat_length (h : body.length = len.toNat) : BitVec.ofNat 16 body.length = len := by
  rw [h, BitVec.ofNat_toNat, BitVec.setWidth_eq]

/-- What the framer assembles from its registers is the frame of R120, when `TX_LEN` and `TX_CRC` are those of the
body. -/
theorem assembleFrame_eq_frameBytes (hlen : body.length = len.toNat) :
    assembleFrame cfg mtype id len body (crc16 (txPrefix cfg mtype id len ++ body)) =
      frameBytes cfg mtype id body := by
  simp only [frameBytes, ofNat_length hlen]

/-- The header of the frames the framer builds (30_encoding.md R70). -/
def txHeader (cfg : Config) (mtype id : Byte) : Header :=
  ⟨cfg.hdrMagic0, cfg.hdrMagic1, cfg.txAddr0, cfg.txAddr1, id, mtype⟩

/-- The bytes of a whole frame, as a deframer takes them (R70, R71). -/
def wireFrame (hdr : Header) (len : Half) (body : List Byte) (crc : Half) : List Byte :=
  hdr.toList ++ u16be len ++ body ++ u16be crc

/-- The bytes of a frame that its CRC covers (R72). -/
def coveredBytes (hdr : Header) (len : Half) (body : List Byte) : List Byte := hdr.tail ++ u16be len ++ body

theorem frameBytes_eq_wireFrame (hlen : body.length = len.toNat) :
    frameBytes cfg mtype id body =
      wireFrame (txHeader cfg mtype id) len body (crc16 (coveredBytes (txHeader cfg mtype id) len body)) :=
  (assembleFrame_eq_frameBytes hlen).symm

/-! ### The fields of a frame, by their place -/

section
variable (hdr : Header) (len : Half) (body : List Byte) (crc : Half)

theorem length_wireFrame : (wireFrame hdr len body crc).length = 10 + body.length := by
  simp [wireFrame, Header.toList, u16be]
  omega

theorem wireFrame_length_field :
    be16 ((wireFrame hdr len body crc).getD 6 0) ((wireFrame hdr len body crc).getD 7 0) = len :=
  be16_hiByte_loByte len

theorem drop_two_wireFrame : (wireFrame hdr len body crc).drop 2 = coveredBytes hdr len body ++ u16be crc := rfl

theorem drop_eight_wireFrame : (wireFrame hdr len body crc).drop 8 = body ++ u16be crc := rfl

theorem wireFrame_body : ((wireFrame hdr len body crc).drop 8).take body.length = body := by
  rw [drop_eight_wireFrame, List.take_left]

theorem wireFrame_covered :
    ((wireFrame hdr len body crc).drop 2).take (6 + body.length) = coveredBytes hdr len body := by
  have hlen : (coveredBytes hdr len body).length = 6 + body.length := by
    simp [coveredBytes, Header.tail, u16be]
    omega
  rw [drop_two_wireFrame, ← hlen, List.take_left]

theorem wireFrame_crc_field :
    be16 ((wireFrame hdr len body crc).getD (8 + body.length) 0)
      ((wireFrame hdr len body crc).getD (9 + body.length) 0) = crc := by
  have hlen : (hdr.toList ++ u16be len ++ body).length = 8 + body.length := by
    simp [Header.toList, u16be]
    omega
  have hhi : (wireFrame hdr len body crc).getD (8 + body.length) 0 = hiByte crc := by
    rw [wireFrame, List.getD_append_right _ _ _ _ (by omega), hlen, Nat.sub_self]
    rfl
  have hlo : (wireFrame hdr len body crc).getD (9 + body.length) 0 = loByte crc := by
    rw [wireFrame, List.getD_append_right _ _ _ _ (by omega), hlen,
      show 9 + body.length - (8 + body.length) = 1 by omega]
    rfl
  rw [hhi, hlo, be16_hiByte_loByte]

end

/-- Settles O24: the frame is a header, a length, a body and a CRC, each read off at its place. -/
theorem frameBytesCarryTheirLengthAndCrc : Obligations.FrameBytesCarryTheirLengthAndCrc := by
  intro cfg mtype id body hbody f L
  have hlen := toNat_ofNat_length hbody
  have hf : f = _ := frameBytes_eq_wireFrame hlen.symm
  rw [hf]
  refine ⟨length_wireFrame _ _ _ _, rfl, ?_, wireFrame_body _ _ _ _, ?_⟩
  · rw [wireFrame_length_field, hlen]
  · rw [wireFrame_crc_field, wireFrame_covered]

end Sys2Proof.Machine
end

section
/-! The framer's commands that send a frame send that of R120 (41_framer.md R121, R122, R124). -/

namespace Sys2Proof.Machine

open Sys2Proof

variable {cfg : Config} {s : State}

theorem exec_txStart_sends {mtype id : Byte} {len : Half} (hb : s.tx.busy = false) (hid : id ≠ 0#8)
    (hlen : len = 0#16) :
    exec (.txStart mtype id len) s =
      .next ((s.setTx ⟨false, mtype, id, len, 0#16, crc16 (txPrefix s.cfg mtype id len), s.tx.buf⟩).emit
        (.txFrame (frameBytes s.cfg mtype id []))) := by
  have hempty : ([] : List Byte).length = len.toNat := by rw [hlen]; rfl
  rw [exec_txStart_empty hb hid hlen, ← assembleFrame_eq_frameBytes hempty, List.append_nil]

section
variable {tx : Framer}

/-- The byte that `TX_REM = 1` waits for makes the body whole. -/
theorem length_bodySoFar_last (d8 : Byte) (hrem : tx.rem.toNat ≤ tx.len.toNat) (hr : tx.rem = 1#16) :
    (tx.bodySoFar ++ [d8]).length = tx.len.toNat := by
  have hone : tx.rem.toNat = 1 := congrArg BitVec.toNat hr
  rw [List.length_append, Framer.bodySoFar, Memory.length_firstBytes, txIndex, List.length_singleton]
  omega

/-- One more byte enters `TX_CRC` as it enters the body (R23). -/
theorem Framer.Inv.crcByte_crc (h : tx.Inv cfg) (hb : tx.busy = true) (d8 : Byte) :
    crcByte tx.crc d8 = crc16 (txPrefix cfg tx.mtype tx.id tx.len ++ (tx.bodySoFar ++ [d8])) := by
  obtain ⟨-, -, -, hcrc, -⟩ := (Framer.inv_busy hb).1 h
  rw [hcrc, ← List.append_assoc, crc16_concat]

end

theorem exec_txData_sends {d8 : Byte} (hs : s.tx.Inv s.cfg) (hb : s.tx.busy = true) (hr : s.tx.rem = 1#16) :
    exec (.txData d8) s = .next ((s.setTx { txAfterByte d8 s.tx with busy := false }).emit
      (.txFrame (frameBytes s.cfg s.tx.mtype s.tx.id (s.tx.bodySoFar ++ [d8])))) := by
  obtain ⟨-, h2, -, -, -⟩ := (Framer.inv_busy hb).1 hs
  have hlen : (s.tx.bodySoFar ++ [d8]).length = s.tx.len.toNat := length_bodySoFar_last d8 h2 hr
  rw [exec_txData_last hb h2 hr, hs.crcByte_crc hb, ← assembleFrame_eq_frameBytes hlen]
  rfl

end Sys2Proof.Machine
end

section
/-! Every event is one the spec allows (41_framer.md R124, R125; 42_deframer.md R148; 60_exceptions.md R191). -/

namespace Sys2Proof.Machine

open Sys2Proof

variable {cfg : Config} {s t u : State} {e : Event}

/-! ### The events a command builds -/

theorem addr_of_hdrOk {m0 m1 a : Byte} (h : hdrOk cfg m0 m1 a = true) : a = cfg.rxAddr := by
  simp only [hdrOk, Bool.and_eq_true, decide_eq_true_eq] at h
  exact h.2

/-- Each outcome of R148 comes with the condition under which it is chosen. -/
theorem frameOutcome_legal (hdr : Header) {len : Half} {body : List Byte} (crcRx : Half)
    (hlen : body.length = len.toNat) : LegalEvent cfg (frameOutcome cfg hdr len body crcRx) := by
  unfold frameOutcome completionEvent
  split_ifs with hcrc hdeliver
  · exact ⟨hcrc, rfl⟩
  · exact ⟨hlen, of_not_not hcrc, by simpa using hdeliver, addr_of_hdrOk⟩
  · obtain ⟨hok, hdelivers⟩ : hdrOk cfg hdr.magic0 hdr.magic1 hdr.addr1 = false ∧
      cfg.hdrMismatchDelivers = false := by simpa using hdeliver
    exact ⟨hok, hdelivers, body, hlen, of_not_not hcrc⟩

/-- The registers hold, of a frame whose last byte comes, what R152 computes over the frame at once. -/
theorem rxCrcLow_eq_frameOutcome {d8 : Byte} (h : s.rx.Inv s.cfg) (hst : s.rx.state = .awaitingCrc) :
    rxCrcLow d8 s = (s.setRx (rxRestart s.rx)).emit
      (frameOutcome s.cfg s.rx.hdr s.rx.len (s.rx.buf.firstBytes s.rx.len.toNat) (be16 s.rx.crcHi d8)) := by
  obtain ⟨-, hbad, hcrc, -⟩ := (Deframer.inv_awaitingCrc hst).1 h
  rw [rxCrcLow, hbad, hcrc, hdrBadOf, Bool.not_not]
  rfl

theorem mem_assignedSelects_of_selected {sel : Byte} {v : Word} (h : selectedRegister s sel = some v) :
    sel ∈ assignedSelects := by
  by_contra hsel
  simp only [assignedSelects, List.mem_cons, List.not_mem_nil, or_false, not_or] at hsel
  simp [selectedRegister, hsel] at h

/-- Form `S` reserves no bit, so `TX_START` has no `RESERVED_BITS`. -/
theorem reservedZero_of_op_txStart {m : Mnemonic} {w : CmdWord} (h : m.op = 0x10#8) : m.ReservedZero w := by
  cases m with
  | txStart => trivial
  | nop | crcInit | crcFeed | crcRead | txData | txAbort | rxByte | rxFlush | regRead => cases h

theorem decodeError_legal {w : CmdWord} {e : DecodeError} (h : decode w = .error e) :
    LegalError (opField w) (ErrorCause.ofDecode e).code := by
  obtain ⟨hop, rfl⟩ | ⟨⟨m, hop, hz⟩, rfl⟩ := (decode_eq_error_iff w e).1 h
  · have hun : opField w ∉ assignedOps := fun hmem => (mem_assignedOps_iff.1 hmem).elim hop
    exact .inl ⟨rfl, hun⟩
  · have hne : opField w ≠ 0x10#8 := fun h10 => hz (reservedZero_of_op_txStart (hop.trans h10))
    exact .inr (.inl ⟨rfl, mem_assignedOps_iff.2 ⟨m, hop⟩, hne⟩)

theorem txBusy_legal : LegalError 0x10#8 0x03#8 := .inr (.inr (.inl ⟨rfl, rfl⟩))

theorem txIdle_legal : LegalError 0x11#8 0x04#8 := .inr (.inr (.inr (.inl ⟨rfl, rfl⟩)))

theorem txBadId_legal : LegalError 0x10#8 0x05#8 := .inr (.inr (.inr (.inr (.inl ⟨rfl, rfl⟩))))

theorem badReg_legal : LegalError 0x30#8 0x06#8 := .inr (.inr (.inr (.inr (.inr ⟨rfl, rfl⟩))))

/-! ### Each command's event -/

/-- If `t` has one event more than `s`, that event is legal. -/
def NewEventLegal (s t : State) : Prop := ∀ e, t.events = s.events ++ [e] → LegalEvent s.cfg e

theorem NewEventLegal.of_quiet (h : t.events = s.events) : NewEventLegal s t := fun e he =>
  absurd (h.symm.trans he) (by simp)

theorem NewEventLegal.of_emit (hu : u.events = s.events) (he : LegalEvent s.cfg e) : NewEventLegal s (u.emit e) := by
  intro e' he'
  rw [State.emit_events, hu] at he'
  cases List.append_cancel_left he'
  exact he

theorem txStart_newEventLegal {mtype id : Byte} {len : Half} (h : exec (.txStart mtype id len) s = .next t) :
    NewEventLegal s t := by
  obtain ⟨-, hx⟩ | ⟨-, -, hx⟩ | ⟨hb, hid, hlen, -⟩ | ⟨-, -, -, hx⟩ := exec_txStart_cases mtype id len s
  · cases hx.symm.trans h
    exact .of_emit rfl txBusy_legal
  · cases hx.symm.trans h
    exact .of_emit rfl txBadId_legal
  · cases (exec_txStart_sends hb hid hlen).symm.trans h
    exact .of_emit rfl ⟨mtype, id, [], hid, Nat.zero_le _, rfl⟩
  · cases hx.symm.trans h
    exact .of_quiet rfl

theorem txData_newEventLegal {d8 : Byte} (hs : s.tx.Inv s.cfg) (h : exec (.txData d8) s = .next t) :
    NewEventLegal s t := by
  obtain ⟨-, hx⟩ | ⟨-, -, hx⟩ | ⟨hb, -, h2, hr, -⟩ | ⟨-, -, -, -, hx⟩ := exec_txData_cases d8 s
  · cases hx.symm.trans h
    exact .of_emit rfl txIdle_legal
  · cases hx.symm.trans h
  · obtain ⟨-, -, hid, -, -⟩ := (Framer.inv_busy hb).1 hs
    have hlen : (s.tx.bodySoFar ++ [d8]).length = s.tx.len.toNat := length_bodySoFar_last d8 h2 hr
    have hmax : (s.tx.bodySoFar ++ [d8]).length ≤ 65535 := hlen ▸ Nat.le_of_lt_succ s.tx.len.isLt
    cases (exec_txData_sends hs hb hr).symm.trans h
    exact .of_emit rfl ⟨s.tx.mtype, s.tx.id, s.tx.bodySoFar ++ [d8], hid, hmax, rfl⟩
  · cases hx.symm.trans h
    exact .of_quiet rfl

theorem rxByte_newEventLegal {d8 : Byte} (hs : s.rx.Inv s.cfg) (h : exec (.rxByte d8) s = .next t) :
    NewEventLegal s t := by
  obtain ⟨-, -, hx⟩ | ⟨-, -, hx⟩ | ⟨-, -, hx⟩ | ⟨-, -, hx⟩ | ⟨-, -, hx⟩ | ⟨-, -, hx⟩ | ⟨hst, -, hx⟩ | ⟨-, hx⟩ :=
    exec_rxByte_cases d8 s <;> cases hx.symm.trans h
  iterate 6 exact .of_quiet rfl
  rw [rxCrcLow_eq_frameOutcome hs hst]
  exact .of_emit rfl (frameOutcome_legal s.rx.hdr _ (Memory.length_firstBytes _ _))

theorem exec_newEventLegal {i : Instr} (hs : s.Inv) (h : exec i s = .next t) : NewEventLegal s t := by
  obtain ⟨htx, hrx⟩ := hs
  cases i with
  | nop | crcInit | crcFeed | txAbort | rxFlush =>
    cases h
    exact .of_quiet rfl
  | crcRead =>
    cases h
    exact .of_emit rfl trivial
  | txStart mtype id len => exact txStart_newEventLegal h
  | txData d8 => exact txData_newEventLegal htx h
  | rxByte d8 => exact rxByte_newEventLegal hrx h
  | regRead sel =>
    obtain ⟨v, hv, hx⟩ | ⟨-, hx⟩ := exec_regRead_cases sel s <;> cases hx.symm.trans h
    · exact .of_emit rfl (mem_assignedSelects_of_selected hv)
    · exact .of_emit rfl badReg_legal

/-! ### A step -/

theorem step_newEventLegal (hs : s.Inv) (h : step s = .next t) : NewEventLegal s t := by
  obtain ⟨-, hx⟩ | ⟨rest, -, hx⟩ | ⟨c, rest, -, hx⟩ | ⟨w, rest, e, -, hd, hx⟩ | ⟨w, rest, i, -, -, hx⟩ := step_cases s
  · cases hx.symm.trans h
    exact .of_quiet rfl
  · cases hx.symm.trans h
    exact .of_quiet rfl
  · cases hx.symm.trans h
    exact .of_quiet rfl
  · cases hx.symm.trans h
    exact .of_emit rfl (decodeError_legal hd)
  · exact exec_newEventLegal (s := s.setInputs rest) hs (hx.symm.trans h)

/-- Settles O44: a step keeps the trace, or appends one event, which the command or the decoding error that the
step runs makes legal. -/
theorem everyEventIsLegal : Obligations.EveryEventIsLegal := by
  intro s t hs htrace h
  obtain ⟨hevents, hcfg, -⟩ := stepAppendsAtMostOneEvent s t h
  intro e he
  rw [hcfg]
  obtain hsame | ⟨e', happend⟩ := hevents
  · exact htrace e (hsame ▸ he)
  · rw [happend, List.mem_append, List.mem_singleton] at he
    obtain hold | rfl := he
    · exact htrace e hold
    · exact step_newEventLegal hs h e happend

end Sys2Proof.Machine
end

section
/-! The framer's commands, each by its rule (41_framer.md R121 to R123), and what they leave unchanged. -/

namespace Sys2Proof.Machine

open Sys2Proof

variable {s t : State}

/-! ### What each command does -/

/-- Settles O19: the words are the command's encodings, and each case of the command is one of R121's. -/
theorem txStartFollowsItsRule : Obligations.TxStartFollowsItsRule := by
  refine ⟨fun mtype id len => ?_, fun s mtype id len =>
    ⟨exec_txStart_busy, exec_txStart_badId, ?_, exec_txStart_open⟩⟩
  · rw [← op_append_start]
    exact decode_encode (.txStart mtype id len)
  · rintro hb hid rfl
    exact exec_txStart_empty hb hid rfl

/-- Settles O20: the words are the command's encodings; the byte is written at `TX_LEN - TX_REM` whether or not it
is the last, and the last one also sends and closes the frame. -/
theorem txDataFollowsItsRule : Obligations.TxDataFollowsItsRule := by
  refine ⟨fun d8 => ?_, fun s d8 => exec_txData_idle, fun s d8 hb h1 h2 hwf => ?_⟩
  · rw [← op_append_setWidth]
    exact decode_encode (.txData d8)
  intro i c
  have hsame : (s.tx.buf.write i d8).read i = d8 := Memory.read_write_same _ _ _ hwf
  have hother : ∀ a, a ≠ i → (s.tx.buf.write i d8).read a = s.tx.buf.read a :=
    fun a ha => Memory.read_write_other _ _ _ _ ha
  have hrem : (s.tx.rem - 1#16).toNat = s.tx.rem.toNat - 1 := toNat_sub_one h1
  by_cases hr : s.tx.rem = 1#16
  · have hr' : s.tx.rem.toNat = 1 := congrArg BitVec.toNat hr
    refine ⟨_, exec_txData_last hb h2 hr, hsame, hother, rfl, hrem, rfl, rfl, rfl, rfl, rfl, rfl, rfl, ?_, ?_⟩
    · exact fun _ => ⟨rfl, rfl⟩
    · exact fun hne => absurd hr' hne
  · have hr' : s.tx.rem.toNat ≠ 1 := fun h => hr (BitVec.eq_of_toNat_eq h)
    refine ⟨_, exec_txData_more hb h1 h2 hr, hsame, hother, rfl, hrem, rfl, rfl, rfl, rfl, rfl, rfl, rfl, ?_, ?_⟩
    · exact fun h => absurd h hr'
    · exact fun _ => ⟨hb, rfl⟩

/-- Settles O21: the word is the command's encoding, and while no frame is open both registers it clears are clear
already (R24). -/
theorem txAbortDropsTheOpenFrame : Obligations.TxAbortDropsTheOpenFrame := by
  refine ⟨decode_encode .txAbort, exec_txAbort, fun s hs hb => ?_⟩
  obtain ⟨htx, -⟩ := hs
  obtain ⟨hrem, -⟩ := (Framer.inv_idle hb).1 htx
  have hkept : { s.tx with busy := false, rem := 0#16 } = s.tx := by rw [← hb, ← hrem]
  exact congrArg (fun tx => Host.Outcome.next (s.setTx tx)) hkept

/-! ### States without a rule -/

theorem exec_txData_outOfRange {d8 : Byte} (hb : s.tx.busy = true)
    (h : s.tx.rem.toNat = 0 ∨ s.tx.len.toNat < s.tx.rem.toNat) :
    exec (.txData d8) s = .fault .txCountOutOfRange := by
  obtain ⟨hidle, -⟩ | ⟨-, -, hx⟩ | ⟨-, h1, h2, -⟩ | ⟨-, h1, h2, -⟩ := exec_txData_cases d8 s
  · rw [hb] at hidle
    cases hidle
  · exact hx
  · omega
  · omega

theorem exec_rxByte_outOfRange {d8 : Byte}
    (h : s.rx.state = .awaitingHeader ∧ 5 < s.rx.cnt.toNat ∨ s.rx.state = .awaitingLength ∧ 1 < s.rx.cnt.toNat ∨
      s.rx.state = .awaitingBody ∧ s.rx.len.toNat ≤ s.rx.cnt.toNat ∨
      s.rx.state = .awaitingCrc ∧ 1 < s.rx.cnt.toNat) :
    exec (.rxByte d8) s = .fault .rxCountOutOfRange := by
  obtain ⟨hst, hc, -⟩ | ⟨hst, hc, -⟩ | ⟨hst, hc, -⟩ | ⟨hst, hc, -⟩ | ⟨hst, hc, -⟩ | ⟨hst, hc, -⟩ | ⟨hst, hc, -⟩ |
    ⟨-, hx⟩ := exec_rxByte_cases d8 s
  case inr.inr.inr.inr.inr.inr.inr => exact hx
  all_goals
    simp only [hst, reduceCtorEq, true_and, false_and, or_false, false_or] at h
    bv_omega

/-- Settles O50: every other case of the two commands has its count in range. -/
theorem statesWithoutARuleStopByName : Obligations.StatesWithoutARuleStopByName :=
  ⟨fun _ _ => exec_txData_outOfRange, fun _ _ => exec_rxByte_outOfRange⟩

/-! ### What the framer's commands leave unchanged -/

theorem exec_txStart_keeps_buf {mtype id : Byte} {len : Half} (h : exec (.txStart mtype id len) s = .next t) :
    t.tx.buf = s.tx.buf := by
  obtain ⟨-, hx⟩ | ⟨-, -, hx⟩ | ⟨-, -, -, hx⟩ | ⟨-, -, -, hx⟩ := exec_txStart_cases mtype id len s <;>
    cases hx.symm.trans h <;> rfl

/-- While no frame is open the framer stays as it is; else `TX_BUF` takes one byte and the header registers stay. -/
theorem exec_txData_framer {d8 : Byte} (h : exec (.txData d8) s = .next t) :
    (s.tx.busy = false ∧ t.tx = s.tx) ∨
    (s.tx.busy = true ∧ t.tx.buf = s.tx.buf.write (txIndex s.tx) d8 ∧ t.tx.mtype = s.tx.mtype ∧
      t.tx.id = s.tx.id ∧ t.tx.len = s.tx.len) := by
  obtain ⟨hb, hx⟩ | ⟨-, -, hx⟩ | ⟨hb, -, -, -, hx⟩ | ⟨hb, -, -, -, hx⟩ := exec_txData_cases d8 s <;>
    cases hx.symm.trans h
  · exact .inl ⟨hb, rfl⟩
  · exact .inr ⟨hb, rfl, rfl, rfl, rfl⟩
  · exact .inr ⟨hb, rfl, rfl, rfl, rfl⟩

/-- The framer's share of what its commands leave unchanged. -/
def KeepsFramer (i : Instr) (s t : State) : Prop :=
  ((∀ d8, i ≠ .txData d8) → ∀ a, t.tx.buf.read a = s.tx.buf.read a) ∧
  (s.tx.busy = false → ∀ a, t.tx.buf.read a = s.tx.buf.read a) ∧
  (∀ a, a ≠ txIndex s.tx → t.tx.buf.read a = s.tx.buf.read a) ∧
  ((∀ mtype id len, i ≠ .txStart mtype id len) →
    t.tx.mtype = s.tx.mtype ∧ t.tx.id = s.tx.id ∧ t.tx.len = s.tx.len) ∧
  (i = .txAbort → t.tx.crc = s.tx.crc)

theorem exec_keepsFramer {i : Instr} (hi : commandPart i = .framer) (h : exec i s = .next t) :
    KeepsFramer i s t := by
  cases i with
  | txStart mtype id len =>
    have hbuf : ∀ a, t.tx.buf.read a = s.tx.buf.read a := by simp [exec_txStart_keeps_buf h]
    exact ⟨fun _ => hbuf, fun _ => hbuf, fun a _ => hbuf a, fun hne => absurd rfl (hne mtype id len), nofun⟩
  | txData d8 =>
    obtain ⟨-, htx⟩ | ⟨hb, hbuf, hheader⟩ := exec_txData_framer h
    · rw [KeepsFramer, htx]
      exact ⟨fun _ _ => rfl, fun _ _ => rfl, fun _ _ => rfl, fun _ => ⟨rfl, rfl, rfl⟩, fun _ => rfl⟩
    · refine ⟨fun hne => absurd rfl (hne d8), fun hidle => ?_, fun a ha => ?_, fun _ => hheader, nofun⟩
      · cases hidle.symm.trans hb
      · rw [hbuf, Memory.read_write_other _ _ _ _ ha]
  | txAbort =>
    cases h
    exact ⟨fun _ _ => rfl, fun _ _ => rfl, fun _ _ => rfl, fun _ => ⟨rfl, rfl, rfl⟩, fun _ => rfl⟩
  | nop | crcInit | crcFeed | crcRead | rxByte | rxFlush | regRead => cases hi

/-- Settles O40: a command writes its own part alone, and of the framer each command keeps the rest. -/
theorem framerCommandsFrame : Obligations.FramerCommandsFrame := by
  intro s t i hi h
  have hchecksum : SamePart .checksum s t := exec_samePart_other h (by simp [hi])
  have hdeframer : SamePart .deframer s t := exec_samePart_other h (by simp [hi])
  exact ⟨Eq.symm hchecksum, .of_samePart hdeframer, (exec_atMostOneEvent h).2, exec_keepsFramer hi h⟩

end Sys2Proof.Machine
end

section
/-! Runs from a state of the invariant: none stops, and the commands of `TX_FRAME` send their frame (41_framer.md
R126). -/

namespace Sys2Proof.Machine

open Sys2Proof

variable {cfg : Config} {s t : State}

/-! ### No run stops (60_exceptions.md R190, R197) -/

theorem txData_never_stops (d8 : Byte) (hs : s.tx.Inv s.cfg) : ∃ t, exec (.txData d8) s = .next t := by
  obtain ⟨-, hx⟩ | ⟨hb, hrange, -⟩ | ⟨-, -, -, -, hx⟩ | ⟨-, -, -, -, hx⟩ := exec_txData_cases d8 s
  · exact ⟨_, hx⟩
  · obtain ⟨h1, h2, -⟩ := (Framer.inv_busy hb).1 hs
    exact absurd ⟨h1, h2⟩ hrange
  · exact ⟨_, hx⟩
  · exact ⟨_, hx⟩

/-- R27 keeps the counts in R140's table. -/
theorem rxByte_never_stops (d8 : Byte) (hs : s.rx.Inv s.cfg) : ∃ t, exec (.rxByte d8) s = .next t := by
  obtain ⟨-, -, hx⟩ | ⟨-, -, hx⟩ | ⟨-, -, hx⟩ | ⟨-, -, hx⟩ | ⟨-, -, hx⟩ | ⟨-, -, hx⟩ | ⟨-, -, hx⟩ | ⟨hout, -⟩ :=
    exec_rxByte_cases d8 s
  case inr.inr.inr.inr.inr.inr.inr =>
    obtain ⟨hheader, hlength, hbody, hcrc, -⟩ := hs
    obtain ⟨hst, hc⟩ | ⟨hst, hc⟩ | ⟨hst, hc⟩ | ⟨hst, hc⟩ := hout
    · exact absurd (hheader hst).1 (by omega)
    · exact absurd (hlength hst) (by omega)
    · exact absurd (hbody hst) (by omega)
    · exact absurd (hcrc hst) (by omega)
  all_goals exact ⟨_, hx⟩

theorem exec_never_stops (i : Instr) (hs : s.Inv) : ∃ t, exec i s = .next t := by
  obtain ⟨htx, hrx⟩ := hs
  cases i with
  | nop | crcInit | crcFeed | crcRead | txAbort | rxFlush => exact ⟨_, rfl⟩
  | txStart mtype id len =>
    obtain ⟨-, hx⟩ | ⟨-, -, hx⟩ | ⟨-, -, -, hx⟩ | ⟨-, -, -, hx⟩ := exec_txStart_cases mtype id len s
    all_goals exact ⟨_, hx⟩
  | txData d8 => exact txData_never_stops d8 htx
  | rxByte d8 => exact rxByte_never_stops d8 hrx
  | regRead sel =>
    obtain ⟨v, -, hx⟩ | ⟨-, hx⟩ := exec_regRead_cases sel s
    all_goals exact ⟨_, hx⟩

theorem execAll_never_stops (is : List Instr) (hs : s.Inv) : ∃ t, execAll is s = .next t := by
  induction is generalizing s with
  | nil => exact ⟨s, rfl⟩
  | cons i is ih =>
    obtain ⟨u, hi⟩ := exec_never_stops i hs
    obtain ⟨t, hrest⟩ := ih (exec_keeps_inv hs hi)
    exact ⟨t, (execAll_cons_of_next is hi).trans hrest⟩

theorem execAll_keeps_inv {is : List Instr} (hs : s.Inv) (h : execAll is s = .next t) : t.Inv := by
  induction is generalizing s with
  | nil =>
    cases h
    exact hs
  | cons i is ih =>
    obtain ⟨u, hi, hrest⟩ := execAll_cons_next h
    exact ih (exec_keeps_inv hs hi) hrest

/-! ### The commands of `TX_FRAME` -/

/-- The framer's registers once it has sent the frame of a type, an id and a body (R126). -/
structure Framer.HasSent (cfg : Config) (mtype id : Byte) (body : List Byte) (tx : Framer) : Prop where
  busy_eq : tx.busy = false
  rem_eq : tx.rem = 0#16
  mtype_eq : tx.mtype = mtype
  id_eq : tx.id = id
  len_eq : tx.len.toNat = body.length
  crc_eq : tx.crc = crc16 (txPrefix cfg mtype id (BitVec.ofNat 16 body.length) ++ body)

/-- From `s` to `t` the frame of a type, an id and a body has been sent, and nothing else has happened to the trace
(R126). -/
def SendsFrame (mtype id : Byte) (body : List Byte) (s t : State) : Prop :=
  t.events = s.events ++ [.txFrame (frameBytes s.cfg mtype id body)] ∧ t.tx.HasSent s.cfg mtype id body

theorem bodySoFar_eq_nil {tx : Framer} (h : tx.rem = tx.len) : tx.bodySoFar = [] := by
  rw [Framer.bodySoFar, txIndex, h, Nat.sub_self, Memory.firstBytes_zero]

theorem sendsFrame_txStart {mtype id : Byte} (hb : s.tx.busy = false) (hid : id ≠ 0#8) :
    ∃ t, exec (.txStart mtype id 0#16) s = .next t ∧ SendsFrame mtype id [] s t := by
  refine ⟨_, exec_txStart_sends hb hid rfl, rfl, rfl, rfl, rfl, rfl, rfl, ?_⟩
  rw [List.append_nil]
  rfl

/-- The last byte of a frame sends it. -/
theorem sendsFrame_txData {d8 : Byte} (hs : s.tx.Inv s.cfg) (hb : s.tx.busy = true) (hr : s.tx.rem = 1#16) :
    ∃ t, exec (.txData d8) s = .next t ∧ SendsFrame s.tx.mtype s.tx.id (s.tx.bodySoFar ++ [d8]) s t := by
  obtain ⟨-, h2, -, -, -⟩ := (Framer.inv_busy hb).1 hs
  have hlen : (s.tx.bodySoFar ++ [d8]).length = s.tx.len.toNat := length_bodySoFar_last d8 h2 hr
  refine ⟨_, exec_txData_sends hs hb hr, rfl, rfl, ?_, rfl, rfl, hlen.symm, ?_⟩
  · show s.tx.rem - 1#16 = 0#16
    rw [hr]
    rfl
  · rw [ofNat_length hlen]
    exact hs.crcByte_crc hb d8

theorem bodySoFar_txAfterByte {tx : Framer} (d8 : Byte) (h1 : 1 ≤ tx.rem.toNat) (h2 : tx.rem.toNat ≤ tx.len.toNat)
    (hm : tx.buf.wf = true) : (txAfterByte d8 tx).bodySoFar = tx.bodySoFar ++ [d8] := by
  rw [Framer.bodySoFar, txIndex_txAfterByte d8 h1 h2]
  exact Memory.firstBytes_write _ _ _ hm

/-- The bytes an open frame waits for send it, by induction on them: every byte but the last extends the body. -/
theorem execAll_txData_sends (bs : List Byte) (hs : s.Inv) (hb : s.tx.busy = true)
    (hbs : bs.length = s.tx.rem.toNat) :
    ∃ t, execAll (bs.map .txData) s = .next t ∧ SendsFrame s.tx.mtype s.tx.id (s.tx.bodySoFar ++ bs) s t := by
  induction bs generalizing s with
  | nil =>
    obtain ⟨h1, -⟩ := (Framer.inv_busy hb).1 hs.1
    simp [← hbs] at h1
  | cons d8 bs ih =>
    obtain ⟨h1, h2, -, -, hbuf, -⟩ := (Framer.inv_busy hb).1 hs.1
    by_cases hr : s.tx.rem = 1#16
    · have hnil : bs = [] := by simpa [hr] using hbs
      obtain ⟨t, hx, hsent⟩ := sendsFrame_txData (d8 := d8) hs.1 hb hr
      rw [hnil]
      exact ⟨t, execAll_cons_of_next [] hx, hsent⟩
    · have hx := exec_txData_more (d8 := d8) hb h1 h2 hr
      have hrem : (txAfterByte d8 s.tx).rem.toNat = s.tx.rem.toNat - 1 := toNat_sub_one h1
      obtain ⟨t, hrun, hsent⟩ := ih (exec_keeps_inv hs hx) hb (by rw [State.setTx_tx, hrem, ← hbs]; rfl)
      refine ⟨t, (execAll_cons_of_next _ hx).trans hrun, ?_⟩
      rw [State.setTx_tx, bodySoFar_txAfterByte d8 h1 h2 hbuf, List.append_assoc] at hsent
      exact hsent

theorem execAll_txFrame_sends {mtype id : Byte} {body : List Byte} (hs : s.Inv) (hb : s.tx.busy = false)
    (hid : id ≠ 0#8) (hlen : body.length ≤ 65535) :
    ∃ t, execAll (txFrame mtype id body) s = .next t ∧ SendsFrame mtype id body s t := by
  by_cases hbody : body = []
  · subst hbody
    obtain ⟨t, hx, hsent⟩ := sendsFrame_txStart (mtype := mtype) hb hid
    exact ⟨t, execAll_cons_of_next [] hx, hsent⟩
  · have hlen' := toNat_ofNat_length hlen
    have hne : BitVec.ofNat 16 body.length ≠ 0#16 := fun h => by
      rw [h] at hlen'
      exact hbody (List.length_eq_zero_iff.1 hlen'.symm)
    have hx := exec_txStart_open (mtype := mtype) hb hid hne
    obtain ⟨t, hrun, hsent⟩ := execAll_txData_sends body (exec_keeps_inv hs hx) rfl hlen'.symm
    refine ⟨t, (execAll_cons_of_next _ hx).trans hrun, ?_⟩
    rw [bodySoFar_eq_nil] at hsent
    · exact hsent
    · rfl

/-- Settles O22: the framer sees of the run only its own commands, which open the frame and give it its bytes. -/
theorem txFrameCommandsSendOneFrame : Obligations.TxFrameCommandsSendOneFrame := by
  intro s mtype id body is hs hb hid hlen his
  obtain ⟨t, hrun⟩ := execAll_never_stops is hs
  obtain ⟨v, hv, hpart, -, hevents⟩ := execAll_filter_sameView (by decide) is (SameView.refl .framer s) hrun
  obtain ⟨u, hu, hsent, hregs⟩ := execAll_txFrame_sends (mtype := mtype) hs hb hid hlen
  rw [his] at hv
  cases hv.symm.trans hu
  have htx : v.tx = t.tx := hpart
  rw [htx] at hregs
  refine ⟨t, hrun, ?_, hregs.busy_eq, hregs.rem_eq, hregs.mtype_eq, hregs.id_eq, hregs.len_eq, hregs.crc_eq⟩
  rw [← hevents, hsent, eventsOf_append]
  rfl

end Sys2Proof.Machine
end

section
/-! The deframer on a whole frame, from the start of a frame to its outcome (42_deframer.md R140 to R148, R152),
and the frames of this engine's own framer among them (41_framer.md R127). -/

namespace Sys2Proof.Machine

open Sys2Proof

variable {s t : State} {hdr : Header} {len : Half} {body : List Byte}

theorem execAll_append_of_next {is : List Instr} (js : List Instr) (h : execAll is s = .next t) :
    execAll (is ++ js) s = execAll js t := by
  induction is generalizing s with
  | nil =>
    cases h
    rfl
  | cons i is ih =>
    obtain ⟨u, hi, hrest⟩ := execAll_cons_next h
    exact (execAll_cons_of_next _ hi).trans (ih hrest)

theorem rxStream_append (as bs : List Byte) : rxStream (as ++ bs) = rxStream as ++ rxStream bs := List.map_append

/-- The deframer at the start of a frame (R151). -/
def Deframer.Aligned (rx : Deframer) : Prop := rx.state = .awaitingHeader ∧ rx.cnt = 0#16

/-- `bs` takes the deframer's registers of `s` to `rx` within a frame: no event, and no other register changes. -/
def Receives (s : State) (bs : List Byte) (rx : Deframer) : Prop := execAll (rxStream bs) s = .next (s.setRx rx)

section
variable {bs cs : List Byte} {rx rx' : Deframer} {d8 : Byte}

theorem Receives.nil (s : State) : Receives s [] s.rx := rfl

theorem Receives.append (h : Receives s bs rx) (h' : Receives (s.setRx rx) cs rx') : Receives s (bs ++ cs) rx' := by
  rw [Receives, rxStream_append, execAll_append_of_next _ h]
  exact h'

theorem Receives.cons (h : exec (.rxByte d8) s = .next (s.setRx rx)) (h' : Receives (s.setRx rx) cs rx') :
    Receives s (d8 :: cs) rx' :=
  (execAll_cons_of_next _ h).trans h'

theorem Receives.inv (h : Receives s bs rx) (hs : s.Inv) : (s.setRx rx).Inv := execAll_keeps_inv hs h

end

/-! ### The parts of a frame -/

/-- The header's bytes 0 to 4, then byte 5 (R141, R142). -/
theorem receives_header (hdr : Header) (ha : s.rx.Aligned) :
    ∃ rx, Receives s hdr.toList rx ∧ rx.state = .awaitingLength ∧ rx.cnt = 0#16 ∧ rx.hdr = hdr := by
  obtain ⟨hst, hc⟩ := ha
  refine ⟨_, Receives.cons (exec_rxByte_header _ _ hst ?_) <| Receives.cons (exec_rxByte_header _ _ hst ?_) <|
    Receives.cons (exec_rxByte_header _ _ hst ?_) <| Receives.cons (exec_rxByte_header _ _ hst ?_) <|
    Receives.cons (exec_rxByte_header _ _ hst ?_) <| Receives.cons (exec_rxByte_type _ _ hst ?_) <| Receives.nil _,
    rfl, rfl, ?_⟩
  all_goals simp [rxHeaderByte, rxTypeByte, Header.set, hc]

/-- The two length bytes; a zero length skips the body (R143, R144). -/
theorem receives_length (len : Half) (hst : s.rx.state = .awaitingLength) (hc : s.rx.cnt = 0#16) :
    ∃ rx, Receives s (u16be len) rx ∧ rx.state = (if len = 0#16 then .awaitingCrc else .awaitingBody) ∧
      rx.cnt = 0#16 ∧ rx.hdr = s.rx.hdr ∧ rx.len = len ∧ rx.buf = s.rx.buf := by
  refine ⟨_, Receives.cons (exec_rxByte_lengthHigh _ _ hst hc) <|
    Receives.cons (exec_rxByte_lengthLow _ _ hst rfl) <| Receives.nil _, ?_, rfl, rfl, ?_, rfl⟩
  all_goals simp [rxLengthLow, rxLengthHigh]

/-- The deframer has taken a header, a length and the whole body, and waits for the CRC (R27). -/
structure Deframer.HasBody (hdr : Header) (len : Half) (body : List Byte) (rx : Deframer) : Prop where
  state_eq : rx.state = .awaitingCrc
  cnt_eq : rx.cnt = 0#16
  hdr_eq : rx.hdr = hdr
  len_eq : rx.len = len
  body_eq : rx.buf.firstBytes rx.len.toNat = body

/-- The rest of a body, by induction on it: every byte is stored behind the front of `RX_BUF` (R145). -/
theorem receives_body {bs : List Byte} (hm : s.rx.buf.wf = true) (hst : s.rx.state = .awaitingBody) (hne : bs ≠ [])
    (hbs : s.rx.cnt.toNat + bs.length = s.rx.len.toNat) :
    ∃ rx, Receives s bs rx ∧
      rx.HasBody s.rx.hdr s.rx.len (s.rx.buf.firstBytes s.rx.cnt.toNat ++ bs) := by
  induction bs generalizing s with
  | nil => exact absurd rfl hne
  | cons d8 bs ih =>
    rw [List.length_cons] at hbs
    have hlt : s.rx.cnt.toNat < s.rx.len.toNat := by omega
    have hx := exec_rxByte_body d8 s hst hlt
    have hfront := Memory.firstBytes_write s.rx.buf s.rx.cnt.toNat d8 hm
    by_cases hlast : s.rx.cnt.toNat + 1 = s.rx.len.toNat
    · have hnil : bs = [] := List.length_eq_zero_iff.1 (by omega)
      rw [hlast] at hfront
      rw [rxBodyByte, if_pos hlast] at hx
      subst hnil
      exact ⟨_, Receives.cons hx (Receives.nil _), rfl, rfl, rfl, rfl, hfront⟩
    · rw [rxBodyByte, if_neg hlast] at hx
      have hcnt : (s.rx.cnt + 1#16).toNat = s.rx.cnt.toNat + 1 := toNat_add_one (lt_bufferSize_of_lt hlt)
      have hne' : bs ≠ [] := fun h => by simp [h] at hbs; omega
      obtain ⟨rx, hrun, hbody⟩ := ih (s := s.setRx { s.rx with
        buf := s.rx.buf.write s.rx.cnt.toNat d8, crc := crcByte s.rx.crc d8, cnt := s.rx.cnt + 1#16 })
        (Memory.write_wf _ _ _ hm) hst hne' (by simp only [State.setRx_rx, hcnt]; omega)
      refine ⟨rx, Receives.cons hx hrun, ?_⟩
      simp only [State.setRx_rx, hcnt, hfront, List.append_assoc] at hbody
      exact hbody

/-- The length and the body together: an empty body has no byte to wait for. -/
theorem receives_lengthAndBody (hm : s.rx.buf.wf = true) (hst : s.rx.state = .awaitingLength)
    (hc : s.rx.cnt = 0#16) (hlen : body.length = len.toNat) :
    ∃ rx, Receives s (u16be len ++ body) rx ∧ rx.HasBody s.rx.hdr len body := by
  obtain ⟨rx, hrun, hst', hc', hhdr, hlen', hbuf⟩ := receives_length len hst hc
  by_cases hzero : len = 0#16
  · have hnil : body = [] := List.length_eq_zero_iff.1 (by rw [hlen, hzero]; rfl)
    rw [if_pos hzero] at hst'
    subst hnil
    refine ⟨rx, by rwa [List.append_nil], hst', hc', hhdr, hlen', ?_⟩
    rw [hlen', hzero]
    rfl
  · have hne : body ≠ [] := fun h => hzero (BitVec.eq_of_toNat_eq (by rw [← hlen, h]; rfl))
    rw [if_neg hzero] at hst'
    obtain ⟨rx', hrun', hbody⟩ := receives_body (s := s.setRx rx) (hbuf ▸ hm) hst' hne
      (by simp [hc', hlen', hlen])
    refine ⟨rx', hrun.append hrun', ?_⟩
    simpa [hc', hhdr, hlen'] using hbody

/-- The two CRC bytes complete the frame (R146 to R148). -/
theorem execAll_crcBytes (crc : Half) (hs : s.Inv) (h : s.rx.HasBody hdr len body) :
    ∃ rx, execAll (rxStream (u16be crc)) s = .next ((s.setRx rx).emit (frameOutcome s.cfg hdr len body crc)) ∧
      rx.Aligned := by
  obtain ⟨hst, hc, rfl, rfl, rfl⟩ := h
  have hhi := exec_rxByte_crcHigh (hiByte crc) s hst hc
  obtain ⟨-, hrx⟩ := exec_keeps_inv hs hhi
  have hlo := exec_rxByte_crcLow (loByte crc) (s.setRx (rxCrcHigh (hiByte crc) s.rx)) hst rfl
  rw [rxCrcLow_eq_frameOutcome hrx hst] at hlo
  refine ⟨rxRestart (rxCrcHigh (hiByte crc) s.rx), ?_, rfl, rfl⟩
  refine (execAll_cons_of_next _ hhi).trans ((execAll_cons_of_next _ hlo).trans ?_)
  simp only [State.setRx_rx, rxCrcHigh, be16_hiByte_loByte]
  rfl

/-- Fed a whole frame from the start of a frame, the deframer emits its outcome and is at the start of a frame again
(R152). -/
theorem execAll_wireFrame (crc : Half) (hs : s.Inv) (ha : s.rx.Aligned) (hlen : body.length = len.toNat) :
    ∃ rx, execAll (rxStream (wireFrame hdr len body crc)) s =
        .next ((s.setRx rx).emit (frameOutcome s.cfg hdr len body crc)) ∧ rx.Aligned := by
  obtain ⟨rx, hrun, hst, hc, rfl⟩ := receives_header hdr ha
  obtain ⟨-, hrx⟩ := hrun.inv hs
  obtain ⟨rx', hrun', hbody⟩ := receives_lengthAndBody (s := s.setRx rx) hrx.good.1 hst hc hlen
  have hfront := hrun.append hrun'
  obtain ⟨rx'', hcrc, ha'⟩ := execAll_crcBytes crc (hfront.inv hs) hbody
  rw [wireFrame, List.append_assoc _ (u16be len), rxStream_append, execAll_append_of_next _ hfront]
  exact ⟨rx'', hcrc, ha'⟩

/-! ### The framer's own frames -/

/-- A frame with the right magic, address and CRC is delivered (R148, R153). -/
theorem frameOutcome_delivers {cfg : Config} (hok : hdrOk cfg hdr.magic0 hdr.magic1 hdr.addr1 = true) :
    frameOutcome cfg hdr len body (crc16 (coveredBytes hdr len body)) =
      .rxFrame hdr.addr0 hdr.addr1 hdr.id hdr.mtype len body (crc16 (coveredBytes hdr len body)) true := by
  simp [frameOutcome, completionEvent, coveredBytes, hok]

/-- Settles O25: an event of a command is legal, so the frame is that of R120; its header passes the check of a
deframer with the same magic and address, and its CRC is the one the deframer computes. -/
theorem emittedFrameLoopsBack : Obligations.EmittedFrameLoopsBack := by
  intro s t i bytes hs hx he L
  obtain ⟨mtype, id, body, -, hmax, hframe⟩ := exec_newEventLegal hs hx _ he
  have hlen := toNat_ofNat_length hmax
  rw [frameBytes_eq_wireFrame hlen.symm] at hframe
  have hL : L = body.length := by
    show bytes.length - 10 = body.length
    rw [hframe, length_wireFrame, Nat.add_sub_cancel_left]
  rw [hframe, hL]
  refine ⟨?_, ?_, fun r hr hst hc hm0 hm1 haddr => ?_⟩
  · rw [wireFrame_crc_field, wireFrame_covered]
  · rw [wireFrame_length_field, hlen]
  · obtain ⟨rx, hrun, -⟩ := execAll_wireFrame (hdr := txHeader s.cfg mtype id)
      (crc16 (coveredBytes (txHeader s.cfg mtype id) (BitVec.ofNat 16 body.length) body)) hr ⟨hst, hc⟩ hlen.symm
    refine ⟨_, hrun, ?_⟩
    have hok : hdrOk r.cfg s.cfg.hdrMagic0 s.cfg.hdrMagic1 s.cfg.txAddr1 = true := by
      simp [hdrOk, hm0, hm1, haddr]
    rw [frameOutcome_delivers (hdr := txHeader s.cfg mtype id) hok, wireFrame_body, wireFrame_crc_field]
    rfl

end Sys2Proof.Machine
end

section
/-! The deframer's commands, each by its rule (42_deframer.md R141 to R149), and what they leave unchanged. -/

namespace Sys2Proof.Machine

open Sys2Proof

variable {s t : State} {d8 : Byte}

/-! ### What each command does -/

theorem Header.toList_set (h : Header) {k : Nat} (hk : k ≤ 5) (d : Byte) : (h.set k d).toList = h.toList.set k d := by
  interval_cases k <;> rfl

/-- Settles O26: the two cases are R141's and R142's, and `RX_CNT` does not wrap. -/
theorem rxHeaderBytesFollowTheirRules : Obligations.RxHeaderBytesFollowTheirRules := by
  refine ⟨fun s d8 hst hc => ?_, fun s d8 hst hc => exec_rxByte_type d8 s hst hc⟩
  refine ⟨_, exec_rxByte_header d8 s hst hc, ?_, rfl, ?_, rfl⟩
  · exact Header.toList_set _ (by omega) _
  · exact toNat_add_one (hc.trans_lt (by decide))

/-- Settles O27: the two cases are R143's and R144's. -/
theorem rxLengthBytesFollowTheirRules : Obligations.RxLengthBytesFollowTheirRules :=
  ⟨fun s d8 hst hc => exec_rxByte_lengthHigh d8 s hst hc, fun s d8 hst hc => exec_rxByte_lengthLow d8 s hst hc⟩

theorem rxBodyByte_last (d8 : Byte) {rx : Deframer} (h : rx.cnt.toNat + 1 = rx.len.toNat) :
    rxBodyByte d8 rx = { rx with
      buf := rx.buf.write rx.cnt.toNat d8, crc := crcByte rx.crc d8, state := .awaitingCrc, cnt := 0#16 } :=
  if_pos h

theorem rxBodyByte_more (d8 : Byte) {rx : Deframer} (h : rx.cnt.toNat + 1 ≠ rx.len.toNat) :
    rxBodyByte d8 rx = { rx with
      buf := rx.buf.write rx.cnt.toNat d8, crc := crcByte rx.crc d8, cnt := rx.cnt + 1#16 } :=
  if_neg h

/-- Settles O28: the byte is written at `RX_CNT` whether or not it is the last, and the last one starts the CRC
field. -/
theorem rxBodyByteFollowsItsRule : Obligations.RxBodyByteFollowsItsRule := by
  intro s d8 hst hpos hle hwf
  have hlt : s.rx.cnt.toNat < s.rx.len.toNat := by omega
  have hx := exec_rxByte_body d8 s hst hlt
  have hsame := Memory.read_write_same s.rx.buf s.rx.cnt.toNat d8 hwf
  have hother := fun a => Memory.read_write_other s.rx.buf s.rx.cnt.toNat a d8
  by_cases hlast : s.rx.cnt.toNat + 1 = s.rx.len.toNat
  · rw [rxBodyByte_last d8 hlast] at hx
    exact ⟨_, hx, hsame, hother, rfl, fun _ => ⟨rfl, rfl⟩, fun hne => absurd (by omega) hne, rfl⟩
  · rw [rxBodyByte_more d8 hlast] at hx
    have hcnt := toNat_add_one (lt_bufferSize_of_lt hlt)
    exact ⟨_, hx, hsame, hother, rfl, fun heq => absurd (by omega) hlast, fun _ => ⟨hst, hcnt⟩, rfl⟩

section
variable {delivers ok : Bool} {hdr : Header} {len crcRx crcCalc : Half} {body : List Byte}

theorem completionEvent_crcError (h : crcRx ≠ crcCalc) :
    completionEvent delivers hdr len body crcRx crcCalc ok = .rxCrcError hdr len crcRx crcCalc ok :=
  if_pos h

theorem completionEvent_delivered (h : crcRx = crcCalc) (hok : ok = true ∨ delivers = true) :
    completionEvent delivers hdr len body crcRx crcCalc ok =
      .rxFrame hdr.addr0 hdr.addr1 hdr.id hdr.mtype len body crcRx ok := by
  rw [completionEvent, if_neg (not_not_intro h), if_pos (by simpa using hok)]

theorem completionEvent_headerError (h : crcRx = crcCalc) (hok : ok = false) (hd : delivers = false) :
    completionEvent delivers hdr len body crcRx crcCalc ok = .rxHeaderError hdr len crcRx := by
  rw [completionEvent, if_neg (not_not_intro h), if_neg (by simp [hok, hd])]

end

/-- Settles O29: the second CRC byte emits the completion event, which is one of R148's three. -/
theorem rxCrcBytesCompleteTheFrame : Obligations.RxCrcBytesCompleteTheFrame :=
  ⟨fun s d8 hst hc => exec_rxByte_crcHigh d8 s hst hc, fun s d8 hst hc =>
    ⟨_, exec_rxByte_crcLow d8 s hst hc, completionEvent_crcError, completionEvent_delivered,
      completionEvent_headerError⟩⟩

/-- At the start of a frame the four writes of R149 find their values already there (R27). -/
theorem rxRestart_eq_self {cfg : Config} {rx : Deframer} (h : rx.Inv cfg) (hst : rx.state = .awaitingHeader)
    (hc : rx.cnt = 0#16) : rxRestart rx = rx := by
  obtain ⟨-, hbad, hcrc, -⟩ := (Deframer.inv_awaitingHeader hst).1 h
  have hcrc' : rx.crc = crcInitial := by
    rw [hcrc, hc]
    rfl
  rw [rxRestart, ← hst, ← hc, ← hcrc', ← hbad]

/-- Settles O30: the word is the command's encoding, and the command's four writes are those of the restart. -/
theorem rxFlushRestartsTheDeframer : Obligations.RxFlushRestartsTheDeframer := by
  refine ⟨decode_encode .rxFlush, exec_rxFlush, fun s ⟨_, hrx⟩ hst hc => ?_⟩
  rw [exec_rxFlush, rxRestart_eq_self hrx hst hc]
  rfl

/-! ### Frame boundaries (R151) -/

/-- Settles O32: the case is chosen by `RX_STATE`, `RX_CNT` and `RX_LEN`, and each case moves these by themselves
alone, but for a length byte, which enters `RX_LEN`. -/
theorem frameBoundariesComeFromCountingAlone : Obligations.FrameBoundariesComeFromCountingAlone := by
  intro s s' t d8 d8' hst' hc' hlen' hd h
  obtain ⟨hst, hc, hx⟩ | ⟨hst, hc, hx⟩ | ⟨hst, hc, hx⟩ | ⟨hst, hc, hx⟩ | ⟨hst, hc, hx⟩ | ⟨hst, hc, hx⟩ |
    ⟨hst, hc, hx⟩ | ⟨-, hx⟩ := exec_rxByte_cases d8 s <;> cases hx.symm.trans h
  · exact ⟨_, exec_rxByte_header d8' s' (hst'.trans hst) (hc' ▸ hc), hst', congrArg (· + 1#16) hc', hlen'⟩
  · exact ⟨_, exec_rxByte_type d8' s' (hst'.trans hst) (hc'.trans hc), rfl, rfl, hlen'⟩
  · exact ⟨_, exec_rxByte_lengthHigh d8' s' (hst'.trans hst) (hc'.trans hc), hst', rfl, by rw [hd hst]; rfl⟩
  · refine ⟨_, exec_rxByte_lengthLow d8' s' (hst'.trans hst) (hc'.trans hc), ?_⟩
    simp [rxLengthLow, hd hst, hlen']
  · have hx' := exec_rxByte_body d8' s' (hst'.trans hst) (by rwa [hc', hlen'])
    by_cases hlast : s.rx.cnt.toNat + 1 = s.rx.len.toNat
    · rw [rxBodyByte_last d8' (by rwa [hc', hlen'])] at hx'
      rw [rxBodyByte_last d8 hlast]
      exact ⟨_, hx', rfl, rfl, hlen'⟩
    · rw [rxBodyByte_more d8' (by rwa [hc', hlen'])] at hx'
      rw [rxBodyByte_more d8 hlast]
      exact ⟨_, hx', hst', congrArg (· + 1#16) hc', hlen'⟩
  · exact ⟨_, exec_rxByte_crcHigh d8' s' (hst'.trans hst) (hc'.trans hc), hst', rfl, hlen'⟩
  · exact ⟨_, exec_rxByte_crcLow d8' s' (hst'.trans hst) (hc'.trans hc), rfl, rfl, hlen'⟩

/-! ### What the deframer's commands leave unchanged -/

/-- The registers that one sub-state alone writes are kept from `rx` to `rx'` in every other, and a byte of `RX_BUF`
is kept but for the one at `RX_CNT` in `AWAITING_BODY` (R141 to R148). -/
structure Deframer.Keeps (rx rx' : Deframer) : Prop where
  buf : rx.state ≠ .awaitingBody → rx'.buf = rx.buf
  buf_other : ∀ a, a ≠ rx.cnt.toNat → rx'.buf.read a = rx.buf.read a
  hdr : rx.state ≠ .awaitingHeader → rx'.hdr = rx.hdr
  len : rx.state ≠ .awaitingLength → rx'.len = rx.len
  crcHi : rx.state ≠ .awaitingCrc → rx'.crcHi = rx.crcHi

theorem Deframer.keeps_rxBodyByte (d8 : Byte) {rx : Deframer} (hst : rx.state = .awaitingBody) :
    rx.Keeps (rxBodyByte d8 rx) := by
  have hother := fun a => Memory.read_write_other rx.buf rx.cnt.toNat a d8
  by_cases hlast : rx.cnt.toNat + 1 = rx.len.toNat
  · rw [rxBodyByte_last d8 hlast]
    exact ⟨fun hne => absurd hst hne, hother, fun _ => rfl, fun _ => rfl, fun _ => rfl⟩
  · rw [rxBodyByte_more d8 hlast]
    exact ⟨fun hne => absurd hst hne, hother, fun _ => rfl, fun _ => rfl, fun _ => rfl⟩

theorem exec_rxByte_keeps (h : exec (.rxByte d8) s = .next t) : s.rx.Keeps t.rx := by
  obtain ⟨hst, -, hx⟩ | ⟨hst, -, hx⟩ | ⟨hst, -, hx⟩ | ⟨hst, -, hx⟩ | ⟨hst, -, hx⟩ | ⟨hst, -, hx⟩ | ⟨-, -, hx⟩ |
    ⟨-, hx⟩ := exec_rxByte_cases d8 s <;> cases hx.symm.trans h
  · exact ⟨fun _ => rfl, fun _ _ => rfl, fun hne => absurd hst hne, fun _ => rfl, fun _ => rfl⟩
  · exact ⟨fun _ => rfl, fun _ _ => rfl, fun hne => absurd hst hne, fun _ => rfl, fun _ => rfl⟩
  · exact ⟨fun _ => rfl, fun _ _ => rfl, fun _ => rfl, fun hne => absurd hst hne, fun _ => rfl⟩
  · exact ⟨fun _ => rfl, fun _ _ => rfl, fun _ => rfl, fun hne => absurd hst hne, fun _ => rfl⟩
  · exact Deframer.keeps_rxBodyByte d8 hst
  · exact ⟨fun _ => rfl, fun _ _ => rfl, fun _ => rfl, fun _ => rfl, fun hne => absurd hst hne⟩
  · exact ⟨fun _ => rfl, fun _ _ => rfl, fun _ => rfl, fun _ => rfl, fun _ => rfl⟩

/-- Settles O41: a command writes its own part alone; of the deframer `RX_BYTE` keeps what its sub-state does not
write, and `RX_FLUSH` all of these. -/
theorem deframerCommandsFrame : Obligations.DeframerCommandsFrame := by
  intro s t i hi h
  have hchecksum : SamePart .checksum s t := exec_samePart_other h (by simp [hi])
  have hframer : SamePart .framer s t := exec_samePart_other h (by simp [hi])
  refine ⟨Eq.symm hchecksum, .of_samePart hframer, (exec_atMostOneEvent h).2, ?_⟩
  cases i with
  | rxByte d8 =>
    have hkeeps := exec_rxByte_keeps h
    simp only [reduceCtorEq, or_false]
    exact ⟨fun hne a => by rw [hkeeps.buf hne], hkeeps.buf_other, hkeeps.hdr, hkeeps.len, hkeeps.crcHi⟩
  | rxFlush =>
    cases h
    exact ⟨fun _ _ => rfl, fun _ _ => rfl, fun _ => rfl, fun _ => rfl, fun _ => rfl⟩
  | nop | crcInit | crcFeed | crcRead | txStart | txData | txAbort | regRead => cases hi

end Sys2Proof.Machine
end

section
/-! What `deframe` computes (42_deframer.md R152): a byte sequence is whole frames one after the other, and then
bytes too few for a header and a length, or too few for the frame that their length announces. -/

namespace Sys2Proof.Machine

open Sys2Proof

variable {cfg : Config} {hdr : Header} {len crc : Half} {body rest after bs : List Byte}

/-! ### The frames of a byte sequence -/

theorem exists_header_of_eight_le (h : 8 ≤ bs.length) :
    ∃ (hdr : Header) (len : Half) (rest : List Byte), bs = hdr.toList ++ u16be len ++ rest := by
  match bs, h with
  | m0 :: m1 :: a0 :: a1 :: id :: mtype :: lh :: ll :: rest, _ =>
    exact ⟨⟨m0, m1, a0, a1, id, mtype⟩, be16 lh ll, rest, by simp [Header.toList, u16be]⟩

theorem exists_u16be_of_two_le (h : 2 ≤ bs.length) : ∃ (crc : Half) (rest : List Byte), bs = u16be crc ++ rest := by
  match bs, h with
  | ch :: cl :: rest, _ => exact ⟨be16 ch cl, rest, by simp [u16be]⟩

/-- The bytes behind a length field are too few for the body and the CRC, or begin with them. -/
theorem short_or_exists_body (len : Half) (rest : List Byte) :
    rest.length < len.toNat + 2 ∨ ∃ (body : List Byte) (crc : Half) (after : List Byte),
      body.length = len.toNat ∧ rest = body ++ u16be crc ++ after := by
  by_cases hrest : rest.length < len.toNat + 2
  · exact .inl hrest
  obtain ⟨crc, after, hcrc⟩ := exists_u16be_of_two_le (bs := rest.drop len.toNat) (by rw [List.length_drop]; omega)
  refine .inr ⟨rest.take len.toNat, crc, after, List.length_take_of_le (by omega), ?_⟩
  rw [List.append_assoc, ← hcrc, List.take_append_drop]

/-- The three cases of R152, down to the last frame. -/
inductive FrameSplit : List Byte → Prop where
  | short {bs : List Byte} (h : bs.length < 8) : FrameSplit bs
  | partialFrame (hdr : Header) (len : Half) {rest : List Byte} (h : rest.length < len.toNat + 2) :
    FrameSplit (hdr.toList ++ u16be len ++ rest)
  | whole (hdr : Header) (len : Half) (crc : Half) {body after : List Byte} (h : body.length = len.toNat)
    (hafter : FrameSplit after) : FrameSplit (wireFrame hdr len body crc ++ after)

theorem frameSplit (bs : List Byte) : FrameSplit bs := by
  induction hn : bs.length using Nat.strong_induction_on generalizing bs with
  | _ n ih =>
    by_cases h8 : bs.length < 8
    · exact .short h8
    obtain ⟨hdr, len, rest, rfl⟩ := exists_header_of_eight_le (Nat.le_of_not_lt h8)
    obtain hrest | ⟨body, crc, after, hbody, rfl⟩ := short_or_exists_body len rest
    · exact .partialFrame hdr len hrest
    · have hsplit := FrameSplit.whole hdr len crc hbody (ih after.length (by simp [← hn, u16be]; omega) after rfl)
      rwa [wireFrame, List.append_assoc _ (u16be crc), List.append_assoc _ body, ← List.append_assoc body] at hsplit

/-! ### The equations of `deframe` -/

theorem deframeFuel_short (n : Nat) (h : bs.length < 8) : deframeFuel cfg n bs = [] := by
  unfold deframeFuel
  split
  · rfl
  · simp at h
    omega
  · rfl

theorem deframeFuel_partialFrame (n : Nat) (h : rest.length < len.toNat + 2) :
    deframeFuel cfg n (hdr.toList ++ u16be len ++ rest) = [] := by
  cases n with
  | zero => rfl
  | succ n =>
    have hdrop : (rest.drop len.toNat).length < 2 := by rw [List.length_drop]; omega
    simp only [Header.toList, u16be, List.cons_append, List.nil_append, deframeFuel, be16_hiByte_loByte]
    split
    case h_1 heq =>
      rw [heq] at hdrop
      simp at hdrop
    case h_2 => rfl

theorem deframeFuel_wireFrame (n : Nat) (h : body.length = len.toNat) :
    deframeFuel cfg (n + 1) (wireFrame hdr len body crc ++ after) =
      frameOutcome cfg hdr len body crc :: deframeFuel cfg n after := by
  simp [wireFrame, Header.toList, u16be, deframeFuel, ← h]

/-- The bound on the number of frames does not matter once it is the number of bytes (log 15). -/
theorem deframeFuel_eq_deframe {n : Nat} (h : bs.length ≤ n) : deframeFuel cfg n bs = deframe cfg bs := by
  suffices hcongr : ∀ m, bs.length ≤ m → deframeFuel cfg n bs = deframeFuel cfg m bs from hcongr _ le_rfl
  intro m hm
  induction frameSplit bs generalizing n m with
  | short h8 => rw [deframeFuel_short n h8, deframeFuel_short m h8]
  | partialFrame hdr len hrest => rw [deframeFuel_partialFrame n hrest, deframeFuel_partialFrame m hrest]
  | whole hdr len crc hbody _ ih =>
    rw [List.length_append, length_wireFrame] at h hm
    obtain ⟨n, rfl⟩ := Nat.exists_eq_add_of_le' (show 1 ≤ n by omega)
    obtain ⟨m, rfl⟩ := Nat.exists_eq_add_of_le' (show 1 ≤ m by omega)
    rw [deframeFuel_wireFrame n hbody, deframeFuel_wireFrame m hbody, ih (by omega) m (by omega)]

theorem deframe_short (cfg : Config) (h : bs.length < 8) : deframe cfg bs = [] := deframeFuel_short _ h

theorem deframe_partialFrame (cfg : Config) (hdr : Header) (h : rest.length < len.toNat + 2) :
    deframe cfg (hdr.toList ++ u16be len ++ rest) = [] :=
  deframeFuel_partialFrame _ h

theorem deframe_wireFrame (cfg : Config) (hdr : Header) (crc : Half) (after : List Byte)
    (h : body.length = len.toNat) :
    deframe cfg (wireFrame hdr len body crc ++ after) = frameOutcome cfg hdr len body crc :: deframe cfg after := by
  have hfuel : after.length ≤ 9 + body.length + after.length := Nat.le_add_left _ _
  rw [← deframeFuel_eq_deframe hfuel, ← deframeFuel_wireFrame _ h, deframeFuel_eq_deframe]
  rw [List.length_append, length_wireFrame]
  omega

/-! ### The fields of the first frame, by their place -/

section
variable (hdr : Header) (len : Half) (body : List Byte) (crc : Half) (after : List Byte)

theorem getD_wireFrame_append {i : Nat} (h : i < 10 + body.length) :
    (wireFrame hdr len body crc ++ after).getD i 0 = (wireFrame hdr len body crc).getD i 0 :=
  List.getD_append _ _ _ _ (by rwa [length_wireFrame])

theorem slice_wireFrame_append {k n : Nat} (h : k + n ≤ 10 + body.length) :
    ((wireFrame hdr len body crc ++ after).drop k).take n = ((wireFrame hdr len body crc).drop k).take n := by
  have hlen := length_wireFrame hdr len body crc
  rw [List.drop_append_of_le_length (by omega), List.take_append_of_le_length (by rw [List.length_drop]; omega)]

theorem wireFrame_append_crc_field :
    be16 ((wireFrame hdr len body crc ++ after).getD (8 + body.length) 0)
      ((wireFrame hdr len body crc ++ after).getD (9 + body.length) 0) = crc := by
  rw [getD_wireFrame_append _ _ _ _ _ (by omega), getD_wireFrame_append _ _ _ _ _ (by omega), wireFrame_crc_field]

theorem wireFrame_append_covered :
    ((wireFrame hdr len body crc ++ after).drop 2).take (6 + body.length) = coveredBytes hdr len body := by
  rw [slice_wireFrame_append _ _ _ _ _ (by omega), wireFrame_covered]

theorem wireFrame_append_body : ((wireFrame hdr len body crc ++ after).drop 8).take body.length = body := by
  rw [slice_wireFrame_append _ _ _ _ _ (by omega), wireFrame_body]

theorem drop_wireFrame_append : (wireFrame hdr len body crc ++ after).drop (10 + body.length) = after := by
  rw [← length_wireFrame hdr len body crc, List.drop_left]

end

end Sys2Proof.Machine
end

section
/-! The deframer on a stream of bytes (42_deframer.md R151 to R155, R149). -/

namespace Sys2Proof.Machine

open Sys2Proof

variable {s t : State} {hdr : Header} {len : Half} {body rest bs : List Byte}

/-! ### Within a frame nothing is emitted -/

theorem execAll_events_prefix {is : List Instr} (h : execAll is s = .next t) : s.events <+: t.events := by
  induction is generalizing s with
  | nil =>
    cases h
    exact List.prefix_rfl
  | cons i is ih =>
    obtain ⟨u, hi, hrest⟩ := execAll_cons_next h
    obtain ⟨hsame | ⟨e, happend⟩, -⟩ := exec_atMostOneEvent hi
    · exact hsame ▸ ih hrest
    · exact (happend ▸ List.prefix_append _ _ : s.events <+: u.events).trans (ih hrest)

/-- The trace only grows, so if bytes emit nothing then neither do the first of them. -/
theorem Receives.prefix_emits_nothing {cs : List Byte} {rx : Deframer} (h : Receives s cs rx) (hs : s.Inv)
    (hp : bs <+: cs) : ∃ t, execAll (rxStream bs) s = .next t ∧ t.events = s.events := by
  obtain ⟨ds, rfl⟩ := hp
  obtain ⟨t, ht⟩ := execAll_never_stops (rxStream bs) hs
  rw [Receives, rxStream_append, execAll_append_of_next _ ht] at h
  have hback : t.events <+: s.events := execAll_events_prefix (t := s.setRx rx) h
  exact ⟨t, ht, hback.eq_of_length_le (execAll_events_prefix ht).length_le⟩

/-- All of a frame but its last byte. -/
theorem receives_allButLast (hdr : Header) (d8 : Byte) (hs : s.Inv) (ha : s.rx.Aligned)
    (hlen : body.length = len.toNat) : ∃ rx, Receives s (hdr.toList ++ (u16be len ++ (body ++ [d8]))) rx := by
  obtain ⟨rx, hrun, hst, hc, -⟩ := receives_header hdr ha
  obtain ⟨-, hrx⟩ := hrun.inv hs
  obtain ⟨rx', hrun', hbody⟩ := receives_lengthAndBody (s := s.setRx rx) hrx.good.1 hst hc hlen
  have hx := exec_rxByte_crcHigh d8 ((s.setRx rx).setRx rx') hbody.state_eq hbody.cnt_eq
  have hfront := (hrun.append hrun').append (Receives.cons hx (Receives.nil _))
  simp only [List.append_assoc] at hfront
  exact ⟨_, hfront⟩

theorem exists_body_of_length_lt {n : Nat} (h : rest.length < n + 2) :
    ∃ (body : List Byte) (d8 : Byte), body.length = n ∧ rest <+: body ++ [d8] := by
  by_cases hn : rest.length = n + 1
  · obtain rfl | ⟨body, d8, rfl⟩ := List.eq_nil_or_concat' rest
    · cases hn
    · exact ⟨body, d8, by simpa using hn, List.prefix_rfl⟩
  · refine ⟨rest ++ List.replicate (n - rest.length) 0, 0, by simp; omega, ?_⟩
    rw [List.append_assoc]
    exact List.prefix_append _ _

theorem partialFrame_emits_nothing (hdr : Header) (hs : s.Inv) (ha : s.rx.Aligned)
    (h : rest.length < len.toNat + 2) (hp : bs <+: hdr.toList ++ u16be len ++ rest) :
    ∃ t, execAll (rxStream bs) s = .next t ∧ t.events = s.events := by
  obtain ⟨body, d8, hbody, hrest⟩ := exists_body_of_length_lt h
  obtain ⟨rx, hrun⟩ := receives_allButLast hdr d8 hs ha hbody
  rw [← List.append_assoc] at hrun
  exact hrun.prefix_emits_nothing hs (hp.trans ((List.prefix_append_right_inj _).2 hrest))

theorem short_emits_nothing (hs : s.Inv) (ha : s.rx.Aligned) (h : bs.length < 8) :
    ∃ t, execAll (rxStream bs) s = .next t ∧ t.events = s.events := by
  obtain ⟨hdr, len, rest, hpad⟩ := exists_header_of_eight_le (bs := bs ++ List.replicate 8 0) (by simp)
  have hp : bs <+: hdr.toList ++ u16be len := by
    refine List.prefix_of_prefix_length_le (List.prefix_append bs _) (hpad ▸ List.prefix_append _ rest) ?_
    exact h.le
  exact partialFrame_emits_nothing hdr hs ha (rest := []) (Nat.zero_lt_succ _) (hp.trans (List.prefix_append _ _))

/-! ### The stream -/

/-- Whole frames emit their outcomes, and what is left emits nothing. -/
theorem execAll_rxStream_deframe (bs : List Byte) (hs : s.Inv) (ha : s.rx.Aligned) :
    ∃ t, execAll (rxStream bs) s = .next t ∧ t.events = s.events ++ deframe s.cfg bs := by
  induction frameSplit bs generalizing s with
  | short h8 =>
    rw [deframe_short s.cfg h8, List.append_nil]
    exact short_emits_nothing hs ha h8
  | partialFrame hdr len hrest =>
    rw [deframe_partialFrame s.cfg hdr hrest, List.append_nil]
    exact partialFrame_emits_nothing hdr hs ha hrest List.prefix_rfl
  | whole hdr len crc hbody _ ih =>
    obtain ⟨rx, hrun, ha'⟩ := execAll_wireFrame (hdr := hdr) crc hs ha hbody
    obtain ⟨t, hrest, hevents⟩ := ih (execAll_keeps_inv hs hrun) ha'
    refine ⟨t, ?_, ?_⟩
    · rw [rxStream_append, execAll_append_of_next _ hrun, hrest]
    · rw [hevents, deframe_wireFrame s.cfg hdr crc _ hbody]
      simp

/-- Settles O31: by induction on the frames of the bytes the deframer emits `deframe` of them; the equations of
R152 are those of `deframe`, with each field of the first frame read off at its place. -/
theorem deframerComputesDeframe : Obligations.DeframerComputesDeframe := by
  refine ⟨fun _ bs hs hst hc => execAll_rxStream_deframe bs hs ⟨hst, hc⟩, fun cfg bs => ?_⟩
  obtain h8 | ⟨hdr, len, hrest⟩ | @⟨hdr, len, crc, body, after, hbody, -⟩ := frameSplit bs
  · exact ⟨fun _ => deframe_short cfg h8, fun _ _ => deframe_short cfg h8, fun hwhole => by omega⟩
  · have hnil := deframe_partialFrame cfg hdr hrest
    refine ⟨fun _ => hnil, fun _ _ => hnil, fun hwhole => ?_⟩
    simp [Header.toList, u16be] at hwhole
    omega
  · intro L
    have hL : L = body.length := (congrArg BitVec.toNat (wireFrame_length_field hdr len body crc)).trans hbody.symm
    have hlen : (wireFrame hdr len body crc ++ after).length = 10 + body.length + after.length := by
      rw [List.length_append, length_wireFrame]
    rw [hL, wireFrame_append_crc_field, wireFrame_append_covered, wireFrame_append_body, drop_wireFrame_append,
      ofNat_length hbody]
    exact ⟨fun _ => by omega, fun _ _ => by omega, fun _ => ⟨_, deframe_wireFrame cfg hdr crc after hbody,
      completionEvent_crcError, completionEvent_delivered, completionEvent_headerError⟩⟩

/-- Settles O33: `RX_FLUSH` leads to the start of a frame, from where the stream is deframed. -/
theorem rxFlushRealignsTheStream : Obligations.RxFlushRealignsTheStream := by
  intro s bs hs
  have hflush := exec_rxFlush s
  rw [execAll_cons_of_next _ hflush]
  exact execAll_rxStream_deframe (s := s.setRx (rxRestart s.rx)) bs (exec_keeps_inv hs hflush) ⟨rfl, rfl⟩

/-! ### One frame -/

theorem wireFrame_completesAs (crc : Half) (hs : s.Inv) (ha : s.rx.Aligned) (hlen : body.length = len.toNat)
    {e : Event} (he : frameOutcome s.cfg hdr len body crc = e) :
    ∃ t, execAll (rxStream (wireFrame hdr len body crc)) s = .next t ∧ t.events = s.events ++ [e] := by
  obtain ⟨rx, hrun, -⟩ := execAll_wireFrame (hdr := hdr) crc hs ha hlen
  exact ⟨_, hrun, he ▸ rfl⟩

/-- Settles O34: the frame's header passes the check of R150, and its CRC is the one the deframer computes. -/
theorem everyGoodFrameIsDelivered : Obligations.EveryGoodFrameIsDelivered := by
  intro s addr0 id mtype body hs hst hc hmax len covered frame
  have hok : hdrOk s.cfg s.cfg.hdrMagic0 s.cfg.hdrMagic1 s.cfg.rxAddr = true := by simp [hdrOk]
  exact wireFrame_completesAs _ hs ⟨hst, hc⟩ (toNat_ofNat_length hmax).symm
    (frameOutcome_delivers (hdr := ⟨s.cfg.hdrMagic0, s.cfg.hdrMagic1, addr0, s.cfg.rxAddr, id, mtype⟩) hok)

section
variable {cfg : Config} {m0 m1 a : Byte}

theorem hdrOk_of_magic_ne (h : m0 ≠ cfg.hdrMagic0 ∨ m1 ≠ cfg.hdrMagic1) : hdrOk cfg m0 m1 a = false := by
  obtain h | h := h <;> simp [hdrOk, h]

theorem hdrOk_of_addr_ne (h : a ≠ cfg.rxAddr) : hdrOk cfg m0 m1 a = false := by
  simp [hdrOk, h]

end

/-- The address byte is covered, so the CRC computed over another one does not match (R102). -/
theorem crc16_coveredBytes_addr1_ne {a : Byte} (h : hdr.addr1 ≠ a) (len : Half) (body : List Byte) :
    crc16 (coveredBytes { hdr with addr1 := a } len body) ≠ crc16 (coveredBytes hdr len body) :=
  crcDetectsOneChangedByte [hdr.addr0] ([hdr.id, hdr.mtype] ++ u16be len ++ body) a hdr.addr1 h.symm

/-- Settles O35: the header check of R150 fails, so the outcome of R148 turns on the CRC alone. -/
theorem headerFaultsAreReportedByTheirCrc : Obligations.HeaderFaultsAreReportedByTheirCrc := by
  intro s hdr body hs hst hc hmax hdelivers len crcOver completesAs
  have hcompletes : ∀ crcRx e, frameOutcome s.cfg hdr len body crcRx = e → completesAs crcRx e :=
    fun crcRx _ he => wireFrame_completesAs crcRx hs ⟨hst, hc⟩ (toNat_ofNat_length hmax).symm he
  refine ⟨fun hmagic => ?_, fun haddr => ?_⟩
  · exact hcompletes _ _ (completionEvent_headerError rfl (hdrOk_of_magic_ne hmagic) hdelivers)
  · have hbad : hdrOk s.cfg hdr.magic0 hdr.magic1 hdr.addr1 = false := hdrOk_of_addr_ne haddr
    have hcrcError : ∀ crcRx, crcRx ≠ crcOver hdr →
        completesAs crcRx (.rxCrcError hdr len crcRx (crcOver hdr) false) :=
      fun crcRx hne => hcompletes _ _ (hbad ▸ completionEvent_crcError hne)
    exact ⟨hcompletes _ _ (completionEvent_headerError rfl hbad hdelivers), hcrcError,
      hcrcError _ (crc16_coveredBytes_addr1_ne haddr len body)⟩

end Sys2Proof.Machine
end

section
/-! The words that the spec writes out, and the control commands (43_control.md). -/

namespace Sys2Proof.Machine

open Sys2Proof

variable {w : CmdWord} {s : State}

/-! ### Words written out (30_encoding.md, 95_test_vectors.md) -/

/-- A word of form `B` with no reserved bit set, written as R81 draws it, is the word of the command `i`. -/
theorem decode_formB {i : Instr} {d8 : Byte} (harg : i.argument = d8.setWidth 32) :
    decode ((i.mnemonic.op ++ 0#24) ++ d8) = .ok i := by
  rw [← op_append_setWidth, ← harg]
  exact decode_encode i

/-- Settles O7: the decoder computes its answer to each word that is written out; the word of a received byte is
that of the command, whatever the byte. -/
theorem specWordsDecode : Obligations.SpecWordsDecode := by
  have hhigh : 0x20000000#32 = Mnemonic.rxByte.op ++ 0#24 := by decide
  have hrxByte (b : Byte) : decode (0x20000000#32 ++ b) = .ok (.rxByte b) := by
    rw [hhigh]
    exact decode_formB (i := .rxByte b) rfl
  exact ⟨by decide, by decide, by decide, by decide, hrxByte, by decide⟩

/-! ### `NOP` (R170) -/

theorem argField_ne_zero (hop : opField w = 0#8) (hw : w ≠ 0#40) : argField w ≠ 0#32 := by
  intro harg
  apply hw
  rw [← word_eq_op_arg w, hop, harg]
  rfl

/-- Settles O14: a word with opcode 0 that is not the zero word has an argument bit set, and `NOP` reserves all
of them. -/
theorem nopChangesNothing : Obligations.NopChangesNothing := by
  refine ⟨decode_encode .nop, exec_nop, fun s w rest hin hop hw => ?_⟩
  have hreserved : ¬Mnemonic.nop.ReservedZero w := argField_ne_zero hop hw
  have hd : decode w = .error .reservedBits := decode_of_reservedBitSet ⟨.nop, hop.symm, hreserved⟩
  exact ⟨hd, hop ▸ step_decodeError hin hd⟩

/-! ### `REG_READ` (R171) -/

/-- The select map of R31 as a list: each assigned select with its register, zero-extended. -/
def selectMap (s : State) : List (Byte × Word) :=
  [(0x00#8, statusWord s), (0x01#8, s.crcAcc.setWidth 32), (0x02#8, s.tx.mtype.setWidth 32),
   (0x03#8, s.tx.id.setWidth 32), (0x04#8, s.tx.len.setWidth 32), (0x05#8, s.tx.rem.setWidth 32),
   (0x06#8, s.tx.crc.setWidth 32), (0x08#8, s.rx.cnt.setWidth 32), (0x09#8, s.rx.len.setWidth 32),
   (0x0A#8, s.rx.crc.setWidth 32), (0x0B#8, s.rx.crcHi.setWidth 32), (0x10#8, s.rx.hdr.magic0.setWidth 32),
   (0x11#8, s.rx.hdr.magic1.setWidth 32), (0x12#8, s.rx.hdr.addr0.setWidth 32),
   (0x13#8, s.rx.hdr.addr1.setWidth 32), (0x14#8, s.rx.hdr.id.setWidth 32),
   (0x15#8, s.rx.hdr.mtype.setWidth 32)]

theorem selectedRegister_of_mem_selectMap : ∀ p ∈ selectMap s, selectedRegister s p.1 = some p.2 := by
  simp [selectMap, selectedRegister]

theorem selectedRegister_eq_none {sel : Byte} (h : sel ∉ (selectMap s).map Prod.fst) :
    selectedRegister s sel = none :=
  Option.eq_none_iff_forall_ne_some.2 fun _ hv => h (mem_assignedSelects_of_selected hv)

/-- Settles O36: the words are the command's encodings, and a select names a register just when the map lists it. -/
theorem regReadReportsTheSelectedRegister : Obligations.RegReadReportsTheSelectedRegister := by
  refine ⟨fun sel => decode_formB (i := .regRead sel) rfl, fun s sel => ⟨fun p hp => ?_, fun hsel => ?_⟩⟩
  · exact exec_regRead_assigned (selectedRegister_of_mem_selectMap p hp)
  · exact exec_regRead_unassigned (selectedRegister_eq_none hsel)

end Sys2Proof.Machine
end

section
/-! Errors (60_exceptions.md): no step stops, a received byte raises no error, and a step that raises one has no
other effect. -/

namespace Sys2Proof.Machine

open Sys2Proof

variable {s t u : State}

/-! ### No step stops (R190, R195, R197) -/

/-- Settles O43: beside a command, which never stops in a state of the invariant, each case of a step answers a next
state. -/
theorem stepNeverStops : Obligations.StepNeverStops := by
  intro s hs
  obtain ⟨-, hx⟩ | ⟨rest, -, hx⟩ | ⟨c, rest, -, hx⟩ | ⟨w, rest, e, -, -, hx⟩ | ⟨w, rest, i, -, -, hx⟩ := step_cases s
  case inr.inr.inr.inr =>
    obtain ⟨t, ht⟩ := exec_never_stops (s := s.setInputs rest) i hs
    exact ⟨t, hx.trans ht⟩
  all_goals exact ⟨_, hx⟩

/-! ### Commands that raise no error -/

/-- `t` does not have just one `CmdError` more than `s`. -/
def RaisesNoError (s t : State) : Prop := ∀ op code, t.events ≠ s.events ++ [.cmdError op code]

theorem RaisesNoError.of_quiet (h : t.events = s.events) : RaisesNoError s t := fun op code he =>
  absurd (h.symm.trans he) (by simp)

theorem RaisesNoError.of_emit {e : Event} (hu : u.events = s.events) (he : ∀ op code, e ≠ .cmdError op code) :
    RaisesNoError s (u.emit e) := by
  intro op code h
  rw [State.emit_events, hu] at h
  exact he op code (List.singleton_inj.1 (List.append_cancel_left h))

/-- The outcome of a whole frame is one of the three of R148. -/
theorem completionEvent_ne_cmdError (delivers : Bool) (hdr : Header) (len : Half) (body : List Byte)
    (crcRx crcCalc : Half) (ok : Bool) (op code : Byte) :
    completionEvent delivers hdr len body crcRx crcCalc ok ≠ .cmdError op code := by
  unfold completionEvent
  split_ifs <;> exact nofun

theorem rxByte_raisesNoError {d8 : Byte} (h : exec (.rxByte d8) s = .next t) : RaisesNoError s t := by
  obtain ⟨rx, rfl⟩ | rfl := exec_rxByte_next h
  · exact .of_quiet rfl
  · exact .of_emit rfl (completionEvent_ne_cmdError _ _ _ _ _ _ _)

/-- Settles O47: a received byte writes the deframer alone, or completes a frame, whose outcome is no `CmdError`. -/
theorem receivedBytesRaiseNoError : Obligations.ReceivedBytesRaiseNoError :=
  fun _ _ _ op code h => rxByte_raisesNoError h op code

/-! ### Commands that raise an error (R190, R191) -/

/-- If `t` has just one `CmdError` more than `s`, its opcode is `op`, and `t` differs from `s` in nothing else. -/
def RaisesOnly (op : Byte) (s t : State) : Prop :=
  ∀ op' code, t.events = s.events ++ [.cmdError op' code] → op' = op ∧ t = s.emit (.cmdError op' code)

theorem RaisesOnly.of_raisesNoError {op : Byte} (h : RaisesNoError s t) : RaisesOnly op s t := fun op' code he =>
  absurd he (h op' code)

theorem RaisesOnly.of_emit (op code : Byte) (s : State) : RaisesOnly op s (s.emit (.cmdError op code)) := by
  intro op' code' h
  cases List.append_cancel_left h
  exact ⟨rfl, rfl⟩

theorem txStart_raisesOnly {mtype id : Byte} {len : Half} (h : exec (.txStart mtype id len) s = .next t) :
    RaisesOnly 0x10#8 s t := by
  obtain ⟨-, hx⟩ | ⟨-, -, hx⟩ | ⟨-, -, -, hx⟩ | ⟨-, -, -, hx⟩ := exec_txStart_cases mtype id len s <;>
    cases hx.symm.trans h
  · exact .of_emit _ _ s
  · exact .of_emit _ _ s
  · exact .of_raisesNoError (.of_emit rfl nofun)
  · exact .of_raisesNoError (.of_quiet rfl)

theorem txData_raisesOnly {d8 : Byte} (h : exec (.txData d8) s = .next t) : RaisesOnly 0x11#8 s t := by
  obtain ⟨-, hx⟩ | ⟨-, -, hx⟩ | ⟨-, -, -, -, hx⟩ | ⟨-, -, -, -, hx⟩ := exec_txData_cases d8 s <;>
    cases hx.symm.trans h
  · exact .of_emit _ _ s
  · exact .of_raisesNoError (.of_emit rfl nofun)
  · exact .of_raisesNoError (.of_quiet rfl)

theorem exec_raisesOnly {i : Instr} (h : exec i s = .next t) : RaisesOnly i.mnemonic.op s t := by
  cases i with
  | nop | crcInit | crcFeed | txAbort | rxFlush =>
    cases h
    exact .of_raisesNoError (.of_quiet rfl)
  | crcRead =>
    cases h
    exact .of_raisesNoError (.of_emit rfl nofun)
  | txStart mtype id len => exact txStart_raisesOnly h
  | txData d8 => exact txData_raisesOnly h
  | rxByte d8 => exact .of_raisesNoError (rxByte_raisesNoError h)
  | regRead sel =>
    obtain ⟨v, -, hx⟩ | ⟨-, hx⟩ := exec_regRead_cases sel s <;> cases hx.symm.trans h
    · exact .of_raisesNoError (.of_emit rfl nofun)
    · exact .of_emit _ _ s

/-- A word that decodes has the opcode of the command it gives. -/
theorem opField_of_decode {w : CmdWord} {i : Instr} (h : decode w = .ok i) : opField w = i.mnemonic.op := by
  rw [← encodeOfDecode w i h, opField_encode]

/-! ### A step -/

/-- With no command taken a step raises no error; with one, it raises only the word's own error. -/
theorem step_raisesNoError_or_raisesOnly (h : step s = .next t) :
    RaisesNoError s t ∨ ∃ w rest, s.inputs = ⟨false, some w⟩ :: rest ∧ RaisesOnly (opField w) (s.setInputs rest) t := by
  obtain ⟨-, hx⟩ | ⟨rest, -, hx⟩ | ⟨c, rest, -, hx⟩ | ⟨w, rest, e, hi, -, hx⟩ | ⟨w, rest, i, hi, hd, hx⟩ := step_cases s
  · cases hx.symm.trans h
    exact .inl (.of_quiet rfl)
  · cases hx.symm.trans h
    exact .inl (.of_quiet rfl)
  · cases hx.symm.trans h
    exact .inl (.of_quiet rfl)
  · cases hx.symm.trans h
    exact .inr ⟨w, rest, hi, .of_emit _ _ _⟩
  · exact .inr ⟨w, rest, hi, opField_of_decode hd ▸ exec_raisesOnly (hx.symm.trans h)⟩

/-- Settles O45: a step that raises an error has taken a word, and the decoder's error or the command's is all it
adds to the state with that word taken. -/
theorem errorsHaveNoOtherEffect : Obligations.ErrorsHaveNoOtherEffect := by
  intro s t op code h he
  obtain hno | ⟨w, rest, hi, honly⟩ := step_raisesNoError_or_raisesOnly h
  · exact absurd he (hno op code)
  · obtain ⟨hop, ht⟩ := honly op code he
    exact ⟨w, rest, hi, hop, ht⟩

end Sys2Proof.Machine
end

section
/-! Reset (70_reset_and_hazards.md R210, R211): power-on and the reset input leave the same registers. -/

namespace Sys2Proof.Machine

open Sys2Proof

/-- `STATUS` reads the framer and the deframer alone, and after reset every flag of theirs is clear. -/
theorem statusWord_eq_zero_of_reset {t : State} (htx : t.tx = Framer.reset)
    (hrx : t.rx = Deframer.reset) : statusWord t = 0#32 := by
  rw [statusWord, htx, hrx]
  rfl

/-- Settles O1: the reset values follow from `CRC_ACC`, the framer and the deframer being those of reset, which
they are at power-on and after the step that takes the reset input, whatever word stands beside it. -/
theorem resetSetsEveryRegister : Obligations.ResetSetsEveryRegister := by
  unfold Obligations.ResetSetsEveryRegister
  intro resetValues
  have hvalues {t : State} (hcrc : t.crcAcc = 0xFFFF#16) (htx : t.tx = Framer.reset)
      (hrx : t.rx = Deframer.reset) : resetValues t := by
    have hstatus : statusWord t = 0#32 := statusWord_eq_zero_of_reset htx hrx
    simp [resetValues, hcrc, htx, hrx, hstatus, Framer.reset, Deframer.reset, Header.toList]
  refine ⟨hvalues rfl rfl rfl, fun s command rest hin => ?_⟩
  have hreset : resetValues (applyReset (s.setInputs rest)) :=
    hvalues (applyReset_crcAcc _) (applyReset_tx _) (applyReset_rx _)
  exact ⟨applyReset (s.setInputs rest), step_reset hin, hreset, by simp, by simp, by simp⟩

end Sys2Proof.Machine
end
